-- ==== Sys2Proof/Word.lean ====
section
/-! DEFINITION. The word types of the block and the five-register set (10_state.md R20, R21). -/

namespace Sys2Proof

/-- One byte of a bus transfer (00_scope.md R9). -/
abbrev Byte := BitVec 8

/-- A register value or a status word: exactly 20 bits (10_state.md R21, R26). -/
abbrev Reg := BitVec 20

/-- A 16-bit quantity: milliamps, rpm (00_scope.md R6). -/
abbrev Half := BitVec 16

/-- A 32-bit quantity: times, delays, the step count, response data (00_scope.md R6). -/
abbrev Word := BitVec 32

/-- A command word (30_encoding.md R80). -/
abbrev CommandWord := BitVec 40

/-- The five register kinds, in the order of their indices 0 to 4 (10_state.md R21). -/
inductive RegName where
  | msc   -- MicrostepControl
  | chop  -- ChopperConfig
  | cool  -- CoolStepConfig
  | cur   -- CurrentConfig
  | drv   -- DriverConfig
  deriving DecidableEq, Repr

/-- One 20-bit value for each register kind: the register set itself (R21), and equally the signatures,
the signature masks (30_encoding.md R89) and the host-owned reset bits (R40). -/
structure RegSet where
  msc : Reg
  chop : Reg
  cool : Reg
  cur : Reg
  drv : Reg
  deriving DecidableEq, Repr

/-- The eight status flags sub027 names (30_encoding.md R87). -/
inductive StatusFlag where
  | stall | otShutdown | otWarning | s2gA | s2gB | olA | olB | standstill
  deriving DecidableEq, Repr

/-- The order of the 8 bits of a byte on the serial line (20_memory.md R62): outside the block. -/
inductive BitOrder where
  | msbFirst | lsbFirst
  deriving DecidableEq, Repr

end Sys2Proof
end

