-- ==== Sys2Proof/Config.lean ====
section
/-! DEFINITION. The parameters of 00_scope.md R6, fixed at creation, and the free reply byte of 20_memory.md R70. -/

namespace Sys2Proof

/-- `FLAGPOS_f` for the eight flags: a bit position inside `status[9:0]` (30_encoding.md R87). -/
structure FlagPositions where
  stall : Nat
  otShutdown : Nat
  otWarning : Nat
  s2gA : Nat
  s2gB : Nat
  olA : Nat
  olB : Nat
  standstill : Nat
  deriving DecidableEq, Repr

/-- The parameters of one instance of the block (00_scope.md R6). Plain data: a claim about every state holds
for every value of every parameter (log 1). Which values are legal is `Config.legal` (R7). -/
structure Config where
  /-- `STEPS_PER_REV`, OPEN. -/
  stepsPerRev : Nat
  /-- `R_SENSE`, milliohms, default 100. -/
  rSense : Nat
  /-- `INIT_CURRENT_MA`, OPEN. -/
  initCurrentMa : Nat
  /-- `POS_MRES`. -/
  posMres : Nat
  /-- `POS_CS`. -/
  posCs : Nat
  /-- `POS_VSENSE`. -/
  posVsense : Nat
  /-- `SIG_k`. -/
  sig : RegSet
  /-- `SIGMASK_k`. -/
  sigMask : RegSet
  /-- `FLAGPOS_f`. -/
  flagPos : FlagPositions
  /-- `BIT_ORDER`, of the transport (R62). -/
  bitOrder : BitOrder
  /-- `RESET_MRES`, OPEN in 0..8. -/
  resetMres : BitVec 4
  /-- `RESET_RPM`, OPEN. -/
  resetRpm : Half
  /-- `RESET_STEP_DELAY`, OPEN. -/
  resetStepDelay : Word
  /-- `RESET_STATUS`, OPEN. -/
  resetStatus : Reg
  /-- `RESET_OTHER_k`, OPEN: the bits of register k that are neither signature nor owned. -/
  resetOther : RegSet
  deriving DecidableEq, Repr

/-- `RX_SHIFT` = 4 (20_memory.md R64; 93_implementation_defined.md U1 makes the value normative). -/
def Config.rxShift : Nat := 4

/-- `V_HIGH`, millivolts (00_scope.md R6). -/
def Config.vHigh : Nat := 310

/-- `V_LOW`, millivolts (00_scope.md R6). -/
def Config.vLow : Nat := 165

/-- Microseconds in a minute: the numerator of the step-delay formula (42_step_scheduler.md R154). -/
def Config.microsPerMinute : Nat := 60000000

/-- FREE VALUE (log 3): the byte the transport hands back at the n-th transfer where the state scripts no
answer. "The reply is a free input" (20_memory.md R70): it has no body and nothing can evaluate it. -/
opaque Config.freeReply : Nat → Byte

/-- FREE VALUE (log 16): whether the host's CoolStep software rounds a threshold that is no multiple of 32 up;
sub027 says "Divide both threshold inputs by 32" and gives no rounding (91_not_in_source.md N18). Host side only:
no step reads it. -/
opaque Config.freeCoolStepRoundsUp : Nat → Bool

/-- FREE VALUE (log 16): how the host folds the two overtemperature flags (warning, shutdown) into the one
value of `getOverTemperature` (44_host_register_clients.md R209, 91_not_in_source.md N20). Host side only. -/
opaque Config.freeOverTemperature : Bool → Bool → Nat

/-- The configuration `State.reset` is built from: the defaults of 00_scope.md R6 and 30_encoding.md R87, R89
where they give one (PRESUMED by the spec itself, log 15), and for the OPEN parameters the values log 2 names
(DESIGN CHOICE): 200 steps, 1000 mA, zeros. -/
def Config.standard : Config where
  stepsPerRev := 200
  rSense := 100
  initCurrentMa := 1000
  posMres := 0
  posCs := 0
  posVsense := 6
  sig := { msc := 0x00000#20, chop := 0x80000#20, cool := 0xA0000#20, cur := 0xC0000#20, drv := 0xE0000#20 }
  sigMask := { msc := 0xE0000#20, chop := 0xE0000#20, cool := 0xE0000#20, cur := 0xE0000#20, drv := 0xE0000#20 }
  flagPos := { stall := 0, otShutdown := 1, otWarning := 2, s2gA := 3, s2gB := 4, olA := 5, olB := 6, standstill := 7 }
  bitOrder := .msbFirst
  resetMres := 0
  resetRpm := 0
  resetStepDelay := 0
  resetStatus := 0
  resetOther := { msc := 0, chop := 0, cool := 0, cur := 0, drv := 0 }

end Sys2Proof
end

