-- ==== Sys2Proof/Machine/Operands.lean ====
section
/-! DEFINITION. The arithmetic of the rules, over values alone: register fields, legality of a configuration, the
frame codec's byte packing, the quantizer, the readback, microstep and speed computations, reset values. -/

namespace Sys2Proof

/-! ### The register set -/

/-- `reg[k]` of a register set (10_state.md R21). -/
def RegSet.get (r : RegSet) : RegName → Reg
  | .msc => r.msc
  | .chop => r.chop
  | .cool => r.cool
  | .cur => r.cur
  | .drv => r.drv

/-- `reg[k] <- v` (00_scope.md R8). -/
def RegSet.set (r : RegSet) (k : RegName) (v : Reg) : RegSet :=
  match k with
  | .msc => { r with msc := v }
  | .chop => { r with chop := v }
  | .cool => { r with cool := v }
  | .cur => { r with cur := v }
  | .drv => { r with drv := v }

/-- The five register names in index order (10_state.md R21). -/
def RegName.all : List RegName := [.msc, .chop, .cool, .cur, .drv]

/-- The index of a register (10_state.md R21). -/
def RegName.index : RegName → Nat
  | .msc => 0
  | .chop => 1
  | .cool => 2
  | .cur => 3
  | .drv => 4

/-! ### Fields: insert and extract (30_encoding.md R90) -/

/-- The mask of a `w`-bit field at position `pos`. -/
def fieldMask (pos w : Nat) : Reg := ((BitVec.allOnes w).setWidth 20) <<< pos

/-- `get_f(r) = (r >> pos) & (2^w - 1)` (R90). -/
def getField (w : Nat) (pos : Nat) (r : Reg) : BitVec w := (r >>> pos).setWidth w

/-- `set_f(r, c) = (r & ~mask) | (c << pos)` (R90). -/
def setField {w : Nat} (pos : Nat) (r : Reg) (c : BitVec w) : Reg :=
  (r &&& ~~~(fieldMask pos w)) ||| ((c.setWidth 20) <<< pos)

/-- The bits of register `k` that the block owns (10_state.md R23): `mres` in MSC, `cs` in CUR, `vsense` in DRV. -/
def Config.ownedMask (c : Config) : RegName → Reg
  | .msc => fieldMask c.posMres 4
  | .chop => 0#20
  | .cool => 0#20
  | .cur => fieldMask c.posCs 5
  | .drv => fieldMask c.posVsense 1

/-- `FLAGPOS_f` (30_encoding.md R87). -/
def FlagPositions.pos (p : FlagPositions) : StatusFlag → Nat
  | .stall => p.stall
  | .otShutdown => p.otShutdown
  | .otWarning => p.otWarning
  | .s2gA => p.s2gA
  | .s2gB => p.s2gB
  | .olA => p.olA
  | .olB => p.olB
  | .standstill => p.standstill

/-- The eight flags. -/
def StatusFlag.all : List StatusFlag := [.stall, .otShutdown, .otWarning, .s2gA, .s2gB, .olA, .olB, .standstill]

/-! ### Legal configurations (00_scope.md R7, with the ranges of R6) -/

/-- Each owned field lies inside bits 19:0 and clear of its register's signature mask, and each signature lies under
its mask (R7; the last clause is DEDUCED from 10_state.md R22, log 11). -/
def Config.layoutLegal (c : Config) : Bool :=
  decide (c.posMres ≤ 16) && decide (c.posCs ≤ 15) && decide (c.posVsense ≤ 19)
    && RegName.all.all (fun k =>
      c.sigMask.get k &&& c.ownedMask k == 0#20 && c.sig.get k &&& c.sigMask.get k == c.sig.get k)

/-- The flag positions are pairwise distinct and each in 0..9 (R7). -/
def Config.flagsLegal (c : Config) : Bool :=
  let ps := StatusFlag.all.map c.flagPos.pos
  ps.all (fun p => decide (p ≤ 9)) && decide ps.Nodup

/-- The integer parameters lie in the ranges of R6, the two divisors at least 1 (R7). -/
def Config.rangesLegal (c : Config) : Bool :=
  decide (1 ≤ c.stepsPerRev) && decide (c.stepsPerRev ≤ 65535)
    && decide (1 ≤ c.rSense) && decide (c.rSense ≤ 65535)
    && decide (c.initCurrentMa ≤ 65535) && decide (c.resetMres ≤ 8#4)

/-- Legal parameter values: a configuration that breaks one of these is refused (R7). -/
def Config.legal (c : Config) : Bool := c.rangesLegal && c.layoutLegal && c.flagsLegal

/-! ### The frame codec's packing (30_encoding.md R85, R86) -/

/-- The three bytes of an outgoing frame, in the order sent. -/
structure Frame where
  b0 : Byte
  b1 : Byte
  b2 : Byte
  deriving DecidableEq, Repr

/-- `EncodeFrame(v)`: right-aligned, most significant byte first (R85, 20_memory.md R63). -/
def encodeFrame (v : Reg) : Frame :=
  { b0 := ((v >>> 16) &&& 0x0F#20).setWidth 8
    b1 := ((v >>> 8) &&& 0xFF#20).setWidth 8
    b2 := (v &&& 0xFF#20).setWidth 8 }

/-- `DecodeReply(r0, r1, r2)`: the 24-bit accumulator shifted right by 4 (R86, 20_memory.md R64). -/
def decodeReply (r0 r1 r2 : Byte) : Reg := ((r0 ++ r1 ++ r2 : BitVec 24) >>> Config.rxShift).setWidth 20

/-- The bits of one byte in the order the transport puts them on the line (20_memory.md R62): a derived view,
outside the block (log 17). -/
def byteOnLine (order : BitOrder) (b : Byte) : List Bool :=
  match order with
  | .msbFirst => (List.range 8).map (fun i => b.getLsbD (7 - i))
  | .lsbFirst => (List.range 8).map (fun i => b.getLsbD i)

/-! ### The current quantizer (41_current_quantizer.md) -/

/-- `fdiv(64*R*I - 1000*V, 2000*V)`, the exact form of `floor(R*I*32/(V*1000) - 1/2)` (R131). The divisor is
positive, so Lean's `/` on `Int` is the floor division of 00_scope.md R8. -/
def scaling (v r i : Nat) : Int := (64 * r * i - 1000 * v : Int) / (2000 * v : Int)

/-- `clamp(s, 0, 31)` as the 5-bit field (R130). -/
def clampScaling (s : Int) : BitVec 5 := if s < 0 then 0#5 else if s > 31 then 31#5 else BitVec.ofInt 5 s

/-- `Quantize(R, I)` gives `(cs, vsense)` (R130): the test on the unclamped scaling, the clamp last. -/
def quantize (r i : Nat) : BitVec 5 × BitVec 1 :=
  let s := scaling Config.vHigh r i
  if s < 16 then (clampScaling (scaling Config.vLow r i), 1#1) else (clampScaling s, 0#1)

/-- The sense reference `vsense` selects, in millivolts: 1 is the low one (10_state.md R23, R133). -/
def referenceMv (vsense : BitVec 1) : Nat := if vsense = 1#1 then Config.vLow else Config.vHigh

/-- The current the stored fields stand for: `fdiv((cs + 1) * V * 1000, 32 * R)` (R133); for `R >= 1`. -/
def readbackMa (r : Nat) (cs : BitVec 5) (vsense : BitVec 1) : Nat :=
  (cs.toNat + 1) * referenceMv vsense * 1000 / (32 * r)

/-! ### Microsteps and speed (42_step_scheduler.md) -/

/-- `MicrostepRound(q)`: the greatest power of two of 1..256 not above `q`, 1 below that (R156). -/
def microstepRound (q : Int) : Nat :=
  if q ≤ 1 then 1 else if q ≥ 256 then 256 else 2 ^ Nat.log2 q.toNat

/-- `mres = 8 - log2(m)` for a supported count `m` (30_encoding.md R88, R157). -/
def microstepCode (m : Nat) : BitVec 4 := BitVec.ofNat 4 (8 - Nat.log2 m)

/-- `microsteps = 2^(8 - mres)` for codes 0..8; codes 9..15 have no count (30_encoding.md R88, log 12). -/
def microstepCount (mres : BitVec 4) : Option Nat :=
  if mres.toNat ≤ 8 then some (2 ^ (8 - mres.toNat)) else none

/-- The quotient of `SpeedCompute` (R154): `fdiv(60_000_000, p)` with `p` the exact product, none when `p = 0`. -/
def stepDelayFor (stepsPerRev rpm microsteps : Nat) : Option Word :=
  let p := stepsPerRev * rpm * microsteps
  if p = 0 then none else some (BitVec.ofNat 32 (Config.microsPerMinute / p))

/-- `(now - lastStepTime) mod 2^32` (R152). -/
def elapsed (now last : Word) : Word := now - last

/-! ### Reset values of the register set (10_state.md R40) -/

/-- A register at reset before its owned field: signature under the mask, host-owned bits elsewhere. -/
def resetBase (c : Config) (k : RegName) : Reg :=
  (c.sig.get k &&& c.sigMask.get k) ||| (c.resetOther.get k &&& ~~~(c.sigMask.get k))

/-- The register set after reset: signatures in place, `mres` from `RESET_MRES`, `cs` and `vsense` quantized from
`INIT_CURRENT_MA` (R40). -/
def resetRegs (c : Config) : RegSet :=
  let q := quantize c.rSense c.initCurrentMa
  { msc := setField c.posMres (resetBase c .msc) c.resetMres
    chop := resetBase c .chop
    cool := resetBase c .cool
    cur := setField c.posCs (resetBase c .cur) q.1
    drv := setField c.posVsense (resetBase c .drv) q.2 }

/-! ### The update port (44_host_register_clients.md R190, R191) -/

/-- Duties 1 and 2: the mask touches no signature bit and no owned bit of register `k` (R191). -/
def hostMaskLegal (c : Config) (k : RegName) (mask : Reg) : Bool :=
  mask &&& c.sigMask.get k == 0#20 && mask &&& c.ownedMask k == 0#20

/-- `(reg[k] & ~mask) | (bits & mask)` (R190). -/
def hostMerge (r mask bits : Reg) : Reg := (r &&& ~~~mask) ||| (bits &&& mask)

end Sys2Proof
end

