-- ==== Sys2Proof/Machine/State.lean ====
section
/-! DEFINITION. The state of the block, its ports, the reasons a step can stop, and the state after reset. -/

namespace Sys2Proof.Machine

/-- `direction`: 0 is forward, 1 is reverse (10_state.md R29). -/
inductive Direction where
  | forward
  | reverse
  deriving DecidableEq, Repr

/-- The three output pins (10_state.md R35). -/
inductive Pin where
  | csN
  | step
  | dir
  deriving DecidableEq, Repr

/-- The trace alphabet (00_scope.md R10): a pin driven to a level (true is 1), or one byte transfer. -/
inductive Event where
  | pin (p : Pin) (level : Bool)
  | xfer (tx rx : Byte)
  deriving DecidableEq, Repr

/-- `code` of a response (30_encoding.md R83). -/
inductive ResponseCode where
  | ok
  | busy
  | illegal
  | fault
  deriving DecidableEq, Repr

/-- The response of a completed command (30_encoding.md R83). -/
structure Response where
  code : ResponseCode
  data : Word
  deriving DecidableEq, Repr

/-- What the transport does with one `BusXfer` (20_memory.md R70): hand back a byte, or never answer. -/
inductive BusAnswer where
  | byte (rx : Byte)
  | hang
  deriving DecidableEq, Repr

/-- What the host does next at the block's ports (log 7): present a command word (30_encoding.md R80), update
host-owned bits (44_host_register_clients.md R190), let time pass until the time input reads `now`
(60_exceptions.md R232), pulse `rst` between two commands, or present a word and pulse `rst` while its command is in
progress, once `events` of its output events have happened (70_reset_and_hazards.md R250; log 9). -/
inductive HostAction where
  | command (word : CommandWord)
  | update (k : RegName) (mask bits : Reg)
  | timeReads (now : Word)
  | reset
  | resetDuring (word : CommandWord) (events : Nat)
  deriving DecidableEq, Repr

/-- The state: the tuple of 10_state.md R20, the parameters it is an instance of, and the ports as data. -/
structure State where
  /-- The parameters (00_scope.md R6); no step writes them. -/
  cfg : Config
  /-- `reg[MSC]`, `reg[CHOP]`, `reg[COOL]`, `reg[CUR]`, `reg[DRV]` (R21). -/
  regs : RegSet
  /-- The cached status word (R26). -/
  status : Reg
  /-- Pulses still to emit (R28). -/
  stepsLeft : Word
  /-- Direction of the move (R29). -/
  direction : Direction
  /-- Least time between pulses, microseconds (R30). -/
  stepDelay : Word
  /-- Time sampled at the last pulse (R31). -/
  lastStepTime : Word
  /-- That time plus `stepDelay`; read by no command (R31). -/
  nextStepTime : Word
  /-- The speed last given to SET_SPEED (R32). -/
  rpm : Half
  /-- Whether setters transmit (R34). -/
  started : Bool
  /-- Level of `CS_N` (R35). -/
  csN : Bool
  /-- Level of `STEP` (R35). -/
  stepPin : Bool
  /-- Level of `DIR` (R35). -/
  dirPin : Bool
  /-- Level of the time input `time_us` (60_exceptions.md R232); the block never writes it. -/
  timeUs : Word
  /-- What the host does next, in order (log 7). -/
  host : List HostAction
  /-- The transport's next answers, in order; past its end the free reply (log 3). -/
  bus : List BusAnswer
  /-- MODEL's own: how many byte transfers have completed, the index of the next free reply (log 3). -/
  busTransfers : Nat
  /-- Every pin and transfer event so far, oldest first (00_scope.md R10; log 10). -/
  trace : List Event
  /-- Every response so far, oldest first (30_encoding.md R83; log 10). -/
  responses : List Response
  /-- MODEL's own sticky mark: a DivideByZero has been answered (60_exceptions.md R228, R238; log 5). -/
  divideByZeroSeen : Bool
  deriving DecidableEq, Repr

/-- Why the block stops. -/
inductive Fault where
  /-- Raised by EXCHANGE, and by SET_CURRENT and SET_MICROSTEPS while started, at a byte transfer the transport
  never completes: the command has no further step and gives no response (20_memory.md R70, 40_frame_codec.md R113).
  Carries the state the block hangs in: `CS_N` low, every earlier effect of the command in place (93 U6). The host
  that presented the command pulses no `rst` during it: `HostAction.resetDuring` is the one that does. Safe: no next
  state is claimed (log 4). -/
  | busHung (left : State)
  deriving DecidableEq, Repr

/-- Why the model gives no meaning. -/
inductive Refusal where
  /-- An arm of exec that has no meaning yet. Safe. No arm of this model is one. -/
  | notModelled (mnemonic : String)
  /-- Raised by step on a word that matches no row of the opcode table: "a model refuses them by name and must not
  give one a meaning" (30_encoding.md R84, 60_exceptions.md R222). Safe (log 6). -/
  | illegalCommand (word : CommandWord)
  /-- Raised by step in a configuration that breaks 00_scope.md R7 ("refused by the model (no state, no step)"), and
  by GET_CURRENT where `R_SENSE` is 0. Safe (log 11). -/
  | illegalConfiguration
  /-- Raised by GET_MICROSTEPS and SET_SPEED where `reg[MSC].mres` is 9 to 15, codes to which no rule gives a count
  (30_encoding.md R88, 93 U10: refuse). Safe: unreachable from reset (log 12). -/
  | microstepCodeWithoutCount (mres : BitVec 4)
  /-- Raised by step on a host update whose mask covers a signature or owned bit
  (44_host_register_clients.md R191, 93 U14: refuse). Safe (log 13). -/
  | hostDutyBroken (k : RegName) (mask : Reg)
  deriving DecidableEq, Repr

/-- The block right after reset in a given configuration (10_state.md R40): no command presented, no transfer made. -/
def State.resetOf (c : Config) : State where
  cfg := c
  regs := resetRegs c
  status := c.resetStatus
  stepsLeft := 0#32
  direction := .forward
  stepDelay := c.resetStepDelay
  lastStepTime := 0#32
  nextStepTime := 0#32
  rpm := c.resetRpm
  started := false
  csN := true
  stepPin := false
  dirPin := false
  timeUs := 0#32
  host := []
  bus := []
  busTransfers := 0
  trace := []
  responses := []
  divideByZeroSeen := false

/-- The machine right after reset, in the configuration log 2 and log 15 name. -/
def State.reset : State := State.resetOf Config.standard

end Sys2Proof.Machine
end

