-- ==== Sys2Proof/Machine/Flags.lean ====
section
/-! DEFINITION. The decode functions of the status word, and the block's one condition flag. -/

namespace Sys2Proof.Machine

/-- `readoutValue(s) = s[19:10]` (40_frame_codec.md R114). -/
def readoutValue (status : Reg) : BitVec 10 := status.extractLsb' 10 10

/-- `csReadout(s) = s[14:10]` (40_frame_codec.md R114). -/
def csReadout (status : Reg) : BitVec 5 := status.extractLsb' 10 5

/-- `flag_f(s) = s[FLAGPOS_f]` (40_frame_codec.md R114, 30_encoding.md R87). -/
def statusFlag (p : FlagPositions) (f : StatusFlag) (status : Reg) : Bool := status.getLsbD (p.pos f)

/-- `status[9:0]`, the low ten bits: the flags (10_state.md R27). -/
def flagBits (status : Reg) : BitVec 10 := status.extractLsb' 0 10

/-- `moving` is `stepsLeft > 0` (10_state.md R36). -/
def State.moving (s : State) : Bool := decide (0#32 < s.stepsLeft)

/-- A Boolean as the 32-bit response data 0 or 1. -/
def boolData (b : Bool) : Word := if b then 1#32 else 0#32

/-- The two bits of `code` (30_encoding.md R83). -/
def ResponseCode.bits : ResponseCode → BitVec 2
  | .ok => 0#2
  | .busy => 1#2
  | .illegal => 2#2
  | .fault => 3#2

/-- The 34-bit response word: `code[33:32]`, `data[31:0]` (30_encoding.md R83). -/
def Response.word (r : Response) : BitVec 34 := r.code.bits ++ r.data

/-- The bit a direction is stored as (10_state.md R29). -/
def Direction.bit : Direction → BitVec 1
  | .forward => 0#1
  | .reverse => 1#1

end Sys2Proof.Machine
end

