-- ==== Sys2Proof/Machine/Ops.lean ====
section
/-! DEFINITION. The operations the command rules share: fields of the register set, pins, responses, error causes,
the exchange procedure, the speed computation. -/

namespace Sys2Proof.Machine

/-- The outcome of a command or a step. -/
abbrev Result := Host.Outcome State Fault Refusal

/-- Go on from the next state; a fault or a refusal ends the command. -/
def andThen (o : Result) (k : State → Result) : Result :=
  match o with
  | .next s => k s
  | .fault f => .fault f
  | .refused r => .refused r

/-! ### Owned fields (10_state.md R23) -/

/-- `reg[MSC].mres`. -/
def State.mres (s : State) : BitVec 4 := getField 4 s.cfg.posMres s.regs.msc

/-- `reg[CUR].cs`: the one location of the current scaling (R25). -/
def State.cs (s : State) : BitVec 5 := getField 5 s.cfg.posCs s.regs.cur

/-- `reg[DRV].vsense`. -/
def State.vsense (s : State) : BitVec 1 := getField 1 s.cfg.posVsense s.regs.drv

/-- `reg[MSC].mres <- c`. -/
def State.setMres (s : State) (c : BitVec 4) : State :=
  { s with regs := { s.regs with msc := setField s.cfg.posMres s.regs.msc c } }

/-- `reg[CUR].cs <- c`. -/
def State.setCs (s : State) (c : BitVec 5) : State :=
  { s with regs := { s.regs with cur := setField s.cfg.posCs s.regs.cur c } }

/-- `reg[DRV].vsense <- v`. -/
def State.setVsense (s : State) (v : BitVec 1) : State :=
  { s with regs := { s.regs with drv := setField s.cfg.posVsense s.regs.drv v } }

/-! ### Pins, time, responses (00_scope.md R9) -/

/-- `Pin(p) <- l`: drive the pin and append the event, whether or not the level changes. -/
def State.drivePin (s : State) (p : Pin) (level : Bool) : State :=
  let s := { s with trace := s.trace ++ [Event.pin p level] }
  match p with
  | .csN => { s with csN := level }
  | .step => { s with stepPin := level }
  | .dir => { s with dirPin := level }

/-- The pins `rst` takes to their idle levels: one event for each pin that is not there already, in the order `CS_N`,
`STEP`, `DIR` (70_reset_and_hazards.md R252, 10_state.md R35; the order is the model's, log 9). -/
def State.pinReleases (s : State) : List Event :=
  (if s.csN then [] else [.pin .csN true]) ++ (if s.stepPin then [.pin .step false] else [])
    ++ (if s.dirPin then [.pin .dir false] else [])

/-- `Now()`: the level of the time input (60_exceptions.md R232). -/
def State.now (s : State) : Word := s.timeUs

/-- The response record with one more response. -/
def State.respondWith (s : State) (r : Response) : State := { s with responses := s.responses ++ [r] }

/-- `respond(OK, data)` ends the command. -/
def respondOk (data : Word) (s : State) : Result := .next (s.respondWith { code := .ok, data := data })

/-! ### Error causes (60_exceptions.md R220) -/

/-- The three causes. -/
inductive Cause where
  | busy
  | illegalCommand
  | divideByZero
  deriving DecidableEq, Repr

/-- The response each cause ends its command with (R220). The model records the ILLEGAL response here and gives an
illegal word no step (R222). -/
def Cause.response : Cause → Response
  | .busy => { code := .busy, data := 0#32 }
  | .illegalCommand => { code := .illegal, data := 0#32 }
  | .divideByZero => { code := .fault, data := 1#32 }

/-- `raise cause`: the command ends with the cause's response; nothing is written by `raise` itself, and what the
command wrote before it stays (00_scope.md R9, R220, R227). There is no handler, no saved state and no return (R228).
A DivideByZero leaves the model's own sticky mark (R228, R238; log 5). -/
def raise (c : Cause) (s : State) : Result :=
  .next { s.respondWith c.response with divideByZeroSeen := s.divideByZeroSeen || c == .divideByZero }

/-! ### The byte transport (00_scope.md R9, 20_memory.md R70) -/

/-- What the transport does at the `k`-th transfer from now: the scripted answer, or a free byte past the script. -/
def State.busAnswer (s : State) (k : Nat) : BusAnswer :=
  match s.bus[k]? with
  | some a => a
  | none => .byte (Config.freeReply (s.busTransfers + k))

/-- The byte the transport hands back at the `k`-th transfer from now, where it answers. -/
def State.replyByte (s : State) (k : Nat) : Byte :=
  match s.busAnswer k with
  | .byte rx => rx
  | .hang => 0#8

/-- None of the next `n` transfers hangs. -/
def State.busAnswers (s : State) (n : Nat) : Bool := (List.range n).all (fun k => s.busAnswer k != .hang)

/-- The state after one completed transfer: the answer taken, the event appended (00_scope.md R9). -/
def State.transferred (s : State) (tx rx : Byte) : State :=
  { s with bus := s.bus.tail, busTransfers := s.busTransfers + 1, trace := s.trace ++ [Event.xfer tx rx] }

/-- The state after one output event of a command, as far as the event shows: a pin's level, or a transfer made. -/
def State.emitted (s : State) (e : Event) : State :=
  match e with
  | .pin p level => s.drivePin p level
  | .xfer tx rx => s.transferred tx rx

/-- `BusXfer(tx)`: the byte handed back and the state after it, or, when the transport never answers, the state the
block hangs in. -/
def busXfer (tx : Byte) (s : State) : Except State (Byte × State) :=
  match s.busAnswer 0 with
  | .hang => .error s
  | .byte rx => .ok (rx, s.transferred tx rx)

/-- `Exchange(v)` (40_frame_codec.md R110): `CS_N` low, three transfers, `CS_N` high, the decoded reply in `status`
(which is also the value returned). One attempt, no error outcome; a transfer that never completes leaves `CS_N`
low and `status` as it was (R113). -/
def exchange (v : Reg) (s : State) : Result :=
  let f := encodeFrame v
  match busXfer f.b0 (s.drivePin .csN false) with
  | .error h => .fault (.busHung h)
  | .ok (r0, s1) =>
    match busXfer f.b1 s1 with
    | .error h => .fault (.busHung h)
    | .ok (r1, s2) =>
      match busXfer f.b2 s2 with
      | .error h => .fault (.busHung h)
      | .ok (r2, s3) => .next { s3.drivePin .csN true with status := decodeReply r0 r1 r2 }

/-! ### Speed (42_step_scheduler.md R154) -/

/-- `SpeedCompute(r)` with the microsteps of the stored code: writes `stepDelay`, or raises DivideByZero when the
product is 0 and then `stepDelay` keeps its value. A stored code without a count is refused (93 U10). Ends the
command with `respond(OK, 0)`, as SET_SPEED and SET_MICROSTEPS do. -/
def speedCompute (r : Half) (s : State) : Result :=
  match microstepCount s.mres with
  | none => .refused (.microstepCodeWithoutCount s.mres)
  | some m =>
    match stepDelayFor s.cfg.stepsPerRev r.toNat m with
    | none => raise .divideByZero s
    | some d => respondOk 0#32 { s with stepDelay := d }

end Sys2Proof.Machine
end

