-- ==== Sys2Proof/Machine/CurrentQuantizer.lean ====
section
/-! DEFINITION. The current quantizer's commands: SET_CURRENT, GET_CURRENT, IS_CURRENT_SCALING_HALFED,
GET_RESISTOR (41_current_quantizer.md). -/

namespace Sys2Proof.Machine

/-- SET_CURRENT `mA` (R132): both owned fields written, then, when started, DRV sent first and CUR second. -/
def execSetCurrent (mA : Nat) (s : State) : Result :=
  let q := quantize s.cfg.rSense mA
  let s1 := (s.setVsense q.2).setCs q.1
  if s1.started then
    andThen (exchange s1.regs.drv s1) fun s2 =>
      andThen (exchange s2.regs.cur s2) fun s3 => respondOk 0#32 s3
  else respondOk 0#32 s1

/-- GET_CURRENT (R133): the readback of the stored fields. `R_SENSE = 0` is no legal configuration (00_scope.md R7),
and the quotient is refused there. -/
def execGetCurrent (s : State) : Result :=
  if s.cfg.rSense = 0 then .refused .illegalConfiguration
  else respondOk (BitVec.ofNat 32 (readbackMa s.cfg.rSense s.cs s.vsense)) s

/-- IS_CURRENT_SCALING_HALFED (R134). -/
def execIsCurrentScalingHalfed (s : State) : Result := respondOk (s.vsense.setWidth 32) s

/-- GET_RESISTOR (R135). -/
def execGetResistor (s : State) : Result := respondOk (BitVec.ofNat 32 s.cfg.rSense) s

end Sys2Proof.Machine
end

