-- ==== Sys2Proof/Machine/FrameCodec.lean ====
section
/-! DEFINITION. The frame codec's commands: EXCHANGE, RD_STATUS (40_frame_codec.md). -/

namespace Sys2Proof.Machine

/-- EXCHANGE `value` (R111): one exchange of the value as given; the decoded reply is the response. Not gated by
`started`, writes no register of the set. -/
def execExchange (value : Nat) (s : State) : Result :=
  andThen (exchange (BitVec.ofNat 20 value) s) fun t => respondOk (t.status.setWidth 32) t

/-- RD_STATUS (R112): the cached status word, no bus activity. -/
def execRdStatus (s : State) : Result := respondOk (s.status.setWidth 32) s

end Sys2Proof.Machine
end

