-- ==== Sys2Proof/Machine/Lifecycle.lean ====
section
/-! DEFINITION. The lifecycle commands: START, UNSTART (43_lifecycle.md). -/

namespace Sys2Proof.Machine

/-- START (R180): sets `started`, sends nothing. -/
def execStart (s : State) : Result := respondOk 0#32 { s with started := true }

/-- UNSTART (R181): clears `started`, nothing else. -/
def execUnstart (s : State) : Result := respondOk 0#32 { s with started := false }

end Sys2Proof.Machine
end

