-- ==== Sys2Proof/Machine/StepScheduler.lean ====
section
/-! DEFINITION. The step scheduler's commands: STEP, MOVE, STOP, SET_SPEED, SET_MICROSTEPS, IS_MOVING,
GET_STEPS_LEFT, GET_MICROSTEPS (42_step_scheduler.md). -/

namespace Sys2Proof.Machine

/-- The direction STEP stores: the sign of a non-zero count, the old one for 0 (R151). -/
def stepDirection (count : Int) (old : Direction) : Direction :=
  if count > 0 then .forward else if count < 0 then .reverse else old

/-- STEP `count` (R151): Busy while Moving, with nothing written; otherwise the count and its sign are stored and no
pulse is made. -/
def execStep (count : Int) (s : State) : Result :=
  if s.moving then raise .busy s
  else respondOk 0#32
    { s with stepsLeft := BitVec.ofNat 32 count.natAbs, direction := stepDirection count s.direction }

/-- One pulse (R152): DIR asserted around it when reverse, STEP high then low. -/
def pulsePins (s : State) : State :=
  match s.direction with
  | .forward => (s.drivePin .step true).drivePin .step false
  | .reverse => (((s.drivePin .dir true).drivePin .step true).drivePin .step false).drivePin .dir false

/-- A pulse is due at `now`: Moving, and at least `stepDelay` since the last pulse, modulo 2^32 (R152). -/
def pulseDue (now : Word) (s : State) : Bool := s.moving && decide (s.stepDelay ≤ elapsed now s.lastStepTime)

/-- MOVE (R152): one sample of the time input; at most one pulse, and with it the count, the last and the next step
time. -/
def execMove (s : State) : Result :=
  let now := s.now
  if pulseDue now s then
    respondOk 0#32
      { pulsePins s with
        stepsLeft := s.stepsLeft - 1#32
        lastStepTime := now
        nextStepTime := now + s.stepDelay }
  else respondOk 0#32 s

/-- STOP (R153): Idle and forward; answers whether it was Moving. -/
def execStop (s : State) : Result :=
  respondOk (boolData s.moving) { s with stepsLeft := 0#32, direction := .forward }

/-- SET_SPEED `rpm` (R155): an operand of 0 raises DivideByZero before anything is written. A stored microstep code
without a count is refused before anything is written (93 U10). -/
def execSetSpeed (rpm : Nat) (s : State) : Result :=
  let r : Half := BitVec.ofNat 16 rpm
  if r = 0#16 then raise .divideByZero s
  else speedCompute r { s with rpm := r }

/-- SET_MICROSTEPS `requested` (R157): store the code, send MSC when started, then recompute the delay from the stored
`rpm`; a DivideByZero there leaves the code stored and the exchange made. -/
def execSetMicrosteps (requested : Int) (s : State) : Result :=
  let s1 := s.setMres (microstepCode (microstepRound requested))
  andThen (if s1.started then exchange s1.regs.msc s1 else .next s1) fun s2 => speedCompute s2.rpm s2

/-- IS_MOVING (R158). -/
def execIsMoving (s : State) : Result := respondOk (boolData s.moving) s

/-- GET_STEPS_LEFT (R159). -/
def execGetStepsLeft (s : State) : Result := respondOk s.stepsLeft s

/-- GET_MICROSTEPS (R160); a code without a count is refused (30_encoding.md R88, 93 U10). -/
def execGetMicrosteps (s : State) : Result :=
  match microstepCount s.mres with
  | none => .refused (.microstepCodeWithoutCount s.mres)
  | some m => respondOk (BitVec.ofNat 32 m) s

end Sys2Proof.Machine
end

