-- ==== Sys2Proof/Syntax.lean ====
section
/-! DEFINITION. The sixteen commands of 30_encoding.md R82, with their operands as R81 reads them. -/

namespace Sys2Proof

/-- A command. Operands are the integers of 30_encoding.md R81, after zero or sign extension; their ranges are
`Instr.wellFormed`. -/
inductive Instr where
  /-- EXCHANGE `value`: 40_frame_codec.md R111. -/
  | exchange (value : Nat)
  /-- RD_STATUS: 40_frame_codec.md R112. -/
  | rdStatus
  /-- SET_CURRENT `mA`: 41_current_quantizer.md R132. -/
  | setCurrent (mA : Nat)
  /-- GET_CURRENT: 41_current_quantizer.md R133. -/
  | getCurrent
  /-- IS_CURRENT_SCALING_HALFED: 41_current_quantizer.md R134. -/
  | isCurrentScalingHalfed
  /-- GET_RESISTOR: 41_current_quantizer.md R135. -/
  | getResistor
  /-- STEP `count`: 42_step_scheduler.md R151. -/
  | step (count : Int)
  /-- MOVE: 42_step_scheduler.md R152. -/
  | move
  /-- STOP: 42_step_scheduler.md R153. -/
  | stop
  /-- SET_SPEED `rpm`: 42_step_scheduler.md R155. -/
  | setSpeed (rpm : Nat)
  /-- SET_MICROSTEPS `requested`: 42_step_scheduler.md R157. -/
  | setMicrosteps (requested : Int)
  /-- IS_MOVING: 42_step_scheduler.md R158. -/
  | isMoving
  /-- GET_STEPS_LEFT: 42_step_scheduler.md R159. -/
  | getStepsLeft
  /-- GET_MICROSTEPS: 42_step_scheduler.md R160. -/
  | getMicrosteps
  /-- START: 43_lifecycle.md R180. -/
  | start
  /-- UNSTART: 43_lifecycle.md R181. -/
  | unstart
  deriving DecidableEq, Repr

end Sys2Proof
end

