-- ==== Sys2Proof/Machine/Dispatch.lean ====
section
/-! DEFINITION. The meaning of each command: one arm per constructor of Instr. -/

namespace Sys2Proof.Machine

def exec (i : Instr) (s : State) : Host.Outcome State Fault Refusal :=
  match i with
  | .exchange value => Sys2Proof.Machine.execExchange value s
  | .rdStatus => Sys2Proof.Machine.execRdStatus s
  | .setCurrent mA => Sys2Proof.Machine.execSetCurrent mA s
  | .getCurrent => Sys2Proof.Machine.execGetCurrent s
  | .isCurrentScalingHalfed => Sys2Proof.Machine.execIsCurrentScalingHalfed s
  | .getResistor => Sys2Proof.Machine.execGetResistor s
  | .step count => Sys2Proof.Machine.execStep count s
  | .move => Sys2Proof.Machine.execMove s
  | .stop => Sys2Proof.Machine.execStop s
  | .setSpeed rpm => Sys2Proof.Machine.execSetSpeed rpm s
  | .setMicrosteps requested => Sys2Proof.Machine.execSetMicrosteps requested s
  | .isMoving => Sys2Proof.Machine.execIsMoving s
  | .getStepsLeft => Sys2Proof.Machine.execGetStepsLeft s
  | .getMicrosteps => Sys2Proof.Machine.execGetMicrosteps s
  | .start => Sys2Proof.Machine.execStart s
  | .unstart => Sys2Proof.Machine.execUnstart s

end Sys2Proof.Machine
end

