-- ==== Sys2Proof/WellFormed.lean ====
section
/-! DEFINITION. The operand ranges of 30_encoding.md R81, the check an assembler makes (R91). -/

namespace Sys2Proof

/-- Every operand is in the range 30_encoding.md R81 gives it. Commands without an operand are always well
formed. -/
def Instr.wellFormed : Instr → Bool
  | .exchange value => decide (value < 2 ^ 20)
  | .setCurrent mA => decide (mA < 2 ^ 16)
  | .step count => decide (-(2 ^ 31) ≤ count) && decide (count < 2 ^ 31)
  | .setSpeed rpm => decide (rpm < 2 ^ 16)
  | .setMicrosteps requested => decide (-(2 ^ 15) ≤ requested) && decide (requested < 2 ^ 15)
  | .rdStatus => true
  | .getCurrent => true
  | .isCurrentScalingHalfed => true
  | .getResistor => true
  | .move => true
  | .stop => true
  | .isMoving => true
  | .getStepsLeft => true
  | .getMicrosteps => true
  | .start => true
  | .unstart => true

end Sys2Proof
end

