-- ==== Sys2Proof/Decode.lean ====
section
/-! DEFINITION. The command word of 30_encoding.md R80-R84: decoder, encoder, and the table of R82. -/

namespace Sys2Proof

/-- Why a 40-bit word is no command (30_encoding.md R84). -/
inductive DecodeError where
  /-- An opcode outside the sixteen listed. -/
  | unusedOpcode (op : BitVec 8)
  /-- A listed opcode with a non-zero bit in an `arg` position it does not use. -/
  | nonzeroUnusedOperand (op : BitVec 8) (arg : Word)
  deriving DecidableEq, Repr

/-- `op`, bits 39:32 (R80). -/
def opField (w : CommandWord) : BitVec 8 := w.extractLsb' 32 8

/-- `arg`, bits 31:0 (R80). -/
def argField (w : CommandWord) : Word := w.extractLsb' 0 32

/-- The command `i`, if `arg` is zero above its `used` low bits (R81). -/
def ifUnusedZero (op : BitVec 8) (arg : Word) (used : Nat) (i : Instr) : Except DecodeError Instr :=
  if arg >>> used = 0#32 then .ok i else .error (.nonzeroUnusedOperand op arg)

/-- The decoder: total, every word that matches no row of R82 rejected by name (R84). Operands are read as R81
says: zero-extended, but for the sign-extended `count` and `requested`. -/
def decode (w : CommandWord) : Except DecodeError Instr :=
  let op := opField w
  let arg := argField w
  match op.toNat with
  | 0x10 => ifUnusedZero op arg 20 (.exchange (arg.setWidth 20).toNat)
  | 0x11 => ifUnusedZero op arg 0 .rdStatus
  | 0x20 => ifUnusedZero op arg 16 (.setCurrent (arg.setWidth 16).toNat)
  | 0x21 => ifUnusedZero op arg 0 .getCurrent
  | 0x22 => ifUnusedZero op arg 0 .isCurrentScalingHalfed
  | 0x23 => ifUnusedZero op arg 0 .getResistor
  | 0x30 => ifUnusedZero op arg 32 (.step arg.toInt)
  | 0x31 => ifUnusedZero op arg 0 .move
  | 0x32 => ifUnusedZero op arg 0 .stop
  | 0x33 => ifUnusedZero op arg 16 (.setSpeed (arg.setWidth 16).toNat)
  | 0x34 => ifUnusedZero op arg 16 (.setMicrosteps (arg.setWidth 16).toInt)
  | 0x35 => ifUnusedZero op arg 0 .isMoving
  | 0x36 => ifUnusedZero op arg 0 .getStepsLeft
  | 0x37 => ifUnusedZero op arg 0 .getMicrosteps
  | 0x40 => ifUnusedZero op arg 0 .start
  | 0x41 => ifUnusedZero op arg 0 .unstart
  | _ => .error (.unusedOpcode op)

/-- The opcode of a command (R82). -/
def Instr.opcode : Instr → BitVec 8
  | .exchange _ => 0x10#8
  | .rdStatus => 0x11#8
  | .setCurrent _ => 0x20#8
  | .getCurrent => 0x21#8
  | .isCurrentScalingHalfed => 0x22#8
  | .getResistor => 0x23#8
  | .step _ => 0x30#8
  | .move => 0x31#8
  | .stop => 0x32#8
  | .setSpeed _ => 0x33#8
  | .setMicrosteps _ => 0x34#8
  | .isMoving => 0x35#8
  | .getStepsLeft => 0x36#8
  | .getMicrosteps => 0x37#8
  | .start => 0x40#8
  | .unstart => 0x41#8

/-- The operand bits of a command: a negative value in two's complement in the operand's width (R81, R91), and
zero in every unused position (R82). -/
def Instr.operandBits : Instr → Word
  | .exchange value => (BitVec.ofNat 20 value).setWidth 32
  | .rdStatus => 0
  | .setCurrent mA => (BitVec.ofNat 16 mA).setWidth 32
  | .getCurrent => 0
  | .isCurrentScalingHalfed => 0
  | .getResistor => 0
  | .step count => BitVec.ofInt 32 count
  | .move => 0
  | .stop => 0
  | .setSpeed rpm => (BitVec.ofNat 16 rpm).setWidth 32
  | .setMicrosteps requested => (BitVec.ofInt 16 requested).setWidth 32
  | .isMoving => 0
  | .getStepsLeft => 0
  | .getMicrosteps => 0
  | .start => 0
  | .unstart => 0

/-- The command word of a command (R80): `op` above `arg`. -/
def encode (i : Instr) : CommandWord := i.opcode ++ i.operandBits

/-- One row of the table of R82. -/
structure OpcodeRow where
  mnemonic : String
  mask : CommandWord
  pattern : CommandWord
  deriving DecidableEq, Repr

/-- A word is the row's command when `w & mask = match` (R82). -/
def OpcodeRow.matches (r : OpcodeRow) (w : CommandWord) : Bool := w &&& r.mask == r.pattern

/-- The table of R82, copied row by row. -/
def opcodeTable : List OpcodeRow :=
  [ ⟨"EXCHANGE", 0xFFFFF00000#40, 0x1000000000#40⟩,
    ⟨"RD_STATUS", 0xFFFFFFFFFF#40, 0x1100000000#40⟩,
    ⟨"SET_CURRENT", 0xFFFFFF0000#40, 0x2000000000#40⟩,
    ⟨"GET_CURRENT", 0xFFFFFFFFFF#40, 0x2100000000#40⟩,
    ⟨"IS_CURRENT_SCALING_HALFED", 0xFFFFFFFFFF#40, 0x2200000000#40⟩,
    ⟨"GET_RESISTOR", 0xFFFFFFFFFF#40, 0x2300000000#40⟩,
    ⟨"STEP", 0xFF00000000#40, 0x3000000000#40⟩,
    ⟨"MOVE", 0xFFFFFFFFFF#40, 0x3100000000#40⟩ ] ++
  [ ⟨"STOP", 0xFFFFFFFFFF#40, 0x3200000000#40⟩,
    ⟨"SET_SPEED", 0xFFFFFF0000#40, 0x3300000000#40⟩,
    ⟨"SET_MICROSTEPS", 0xFFFFFF0000#40, 0x3400000000#40⟩,
    ⟨"IS_MOVING", 0xFFFFFFFFFF#40, 0x3500000000#40⟩,
    ⟨"GET_STEPS_LEFT", 0xFFFFFFFFFF#40, 0x3600000000#40⟩,
    ⟨"GET_MICROSTEPS", 0xFFFFFFFFFF#40, 0x3700000000#40⟩,
    ⟨"START", 0xFFFFFFFFFF#40, 0x4000000000#40⟩,
    ⟨"UNSTART", 0xFFFFFFFFFF#40, 0x4100000000#40⟩ ]

/-- The mnemonic of a command (R82). -/
def Instr.mnemonic : Instr → String
  | .exchange _ => "EXCHANGE"
  | .rdStatus => "RD_STATUS"
  | .setCurrent _ => "SET_CURRENT"
  | .getCurrent => "GET_CURRENT"
  | .isCurrentScalingHalfed => "IS_CURRENT_SCALING_HALFED"
  | .getResistor => "GET_RESISTOR"
  | .step _ => "STEP"
  | .move => "MOVE"
  | .stop => "STOP"
  | .setSpeed _ => "SET_SPEED"
  | .setMicrosteps _ => "SET_MICROSTEPS"
  | .isMoving => "IS_MOVING"
  | .getStepsLeft => "GET_STEPS_LEFT"
  | .getMicrosteps => "GET_MICROSTEPS"
  | .start => "START"
  | .unstart => "UNSTART"

/-- The command word of a table row's bits: `nbits` bits of `w`, bit 0 the least significant, zero above. -/
def tableWord (nbits w : Nat) : CommandWord := BitVec.ofNat 40 (w % 2 ^ nbits)

/-- What the decoder reads from a table row's bits. -/
def decodeTableWord (nbits w : Nat) : Option Instr :=
  match decode (tableWord nbits w) with
  | .ok i => some i
  | .error _ => none

end Sys2Proof
end

