-- ==== Sys2Proof/Machine/HostPort.lean ====
section
/-! DEFINITION. The host's side of the ports: the read port, the update port, the time input, `rst`, and the
pseudo-instructions of 30_encoding.md R92. -/

namespace Sys2Proof.Machine

/-- What the read port shows (44_host_register_clients.md R190), with the decode outputs of 40_frame_codec.md R114. -/
structure ReadPort where
  regs : RegSet
  status : Reg
  started : Bool
  readout : BitVec 10
  csReadout : BitVec 5
  flags : List (StatusFlag × Bool)
  deriving DecidableEq, Repr

/-- Reading the port: no command, no change, no trace (R190). -/
def State.readPort (s : State) : ReadPort :=
  { regs := s.regs
    status := s.status
    started := s.started
    readout := readoutValue s.status
    csReadout := csReadout s.status
    flags := StatusFlag.all.map fun f => (f, statusFlag s.cfg.flagPos f s.status) }

/-- `HostUpdate(k, mask, bits)` (R190): within duties 1 and 2 the host's bits are replaced, with no response and no
trace; a mask that breaks a duty is refused (R191, 93 U14). -/
def hostUpdate (k : RegName) (mask bits : Reg) (s : State) : Result :=
  if hostMaskLegal s.cfg k mask then .next { s with regs := s.regs.set k (hostMerge (s.regs.get k) mask bits) }
  else .refused (.hostDutyBroken k mask)

/-- Time passes until the time input reads `now` (60_exceptions.md R232). -/
def timePasses (now : Word) (s : State) : Result := .next { s with timeUs := now }

/-- `rst` is 1 at a clock edge (70_reset_and_hazards.md R250, R252): every register and pin at the value of 10_state.md
R40, the trace extended by the pins that `rst` releases and by nothing else. The parameters stay; so do the time input,
the host's and the transport's scripts, the responses and the sticky mark, none of which is the block's (log 9). -/
def takeReset (s : State) : Result :=
  .next
    { State.resetOf s.cfg with
      timeUs := s.timeUs
      host := s.host
      bus := s.bus
      busTransfers := s.busTransfers
      trace := s.trace ++ s.pinReleases
      responses := s.responses
      divideByZeroSeen := s.divideByZeroSeen }

/-- `rst` in the middle of the command that would go from `s` to the outcome `o` (R250: `rst` is sampled at every edge,
and a command takes many, R266). The command's first `n` output events have happened, all of them if it makes fewer,
the later ones never do, and it gives no response. A command hung in a transfer is released, and the transfer it
waited for is abandoned (20_memory.md R70, R265). What is refused without `rst` is refused with it (log 9). -/
def cutByReset (n : Nat) (o : Result) (s : State) : Result :=
  match o with
  | .next t => takeReset (((t.trace.drop s.trace.length).take n).foldl State.emitted s)
  | .fault (.busHung left) =>
    let made := left.trace.drop s.trace.length
    let c := (made.take n).foldl State.emitted s
    takeReset (if made.length ≤ n then { c with bus := c.bus.tail } else c)
  | .refused r => .refused r

/-- The host does nothing: nothing in the block moves by itself (00_scope.md R5; log 7). -/
def idle (s : State) : Result := .next s

/-! ### Pseudo-instructions (30_encoding.md R92) -/

/-- `SEND k`: EXCHANGE of the present value of register `k`. -/
def sendRegister (k : RegName) (s : State) : List HostAction :=
  [.command (encode (.exchange (s.regs.get k).toNat))]

/-- `READ_STATUS sel` (44_host_register_clients.md R208). The selector field's mask and code are the host's
(91_not_in_source.md N18). When the selector differs from the one the host armed last: update DRV, then send it
twice; otherwise send it once. -/
def readStatus (differs : Bool) (selMask code : Reg) (s : State) : List HostAction :=
  if differs then
    let drv := hostMerge s.regs.drv selMask code
    let send := HostAction.command (encode (.exchange drv.toNat))
    [.update .drv selMask code, send, send]
  else sendRegister .drv s

/-- `IS_<flag>`: the flag's bit of a RD_STATUS result. -/
def isFlag (c : Config) (f : StatusFlag) (r : Response) : Bool := r.data.getLsbD (c.flagPos.pos f)

/-- `GET_READOUT`: bits 19:10 of a RD_STATUS result. -/
def getReadout (r : Response) : BitVec 10 := r.data.extractLsb' 10 10

end Sys2Proof.Machine
end

