-- ==== Sys2Proof/Machine/Step.lean ====
section
/-! DEFINITION. One step: the host's next action at the block's ports, a command performed to completion. -/

namespace Sys2Proof.Machine

/-- A presented word: decoded and performed, or refused by name (30_encoding.md R84). -/
def runCommand (w : CommandWord) (s : State) : Host.Outcome State Fault Refusal :=
  match decode w with
  | .ok i => exec i s
  | .error _ => .refused (.illegalCommand w)

/-- One step (00_scope.md R5): a configuration outside R7 has no step; else the host's next action is taken off its
script and performed. With nothing presented the block does nothing. -/
def step (s : State) : Host.Outcome State Fault Refusal :=
  if s.cfg.legal then
    match s.host with
    | [] => idle s
    | .command w :: rest => runCommand w { s with host := rest }
    | .update k mask bits :: rest => hostUpdate k mask bits { s with host := rest }
    | .timeReads now :: rest => timePasses now { s with host := rest }
    | .reset :: rest => takeReset { s with host := rest }
    | .resetDuring w n :: rest => cutByReset n (runCommand w { s with host := rest }) { s with host := rest }
  else .refused .illegalConfiguration

/-- The host presents, next, the command word whose table bits are `w` (log 7). -/
def State.withFetchWord (s : State) (nbits w : Nat) : State :=
  { s with host := .command (tableWord nbits w) :: s.host }

end Sys2Proof.Machine
end

