-- ==== Sys2Proof/Machine/HostClients.lean ====
section
/-! DEFINITION. HOST SIDE, outside the block (00_scope.md R4): the values the surrounding register clients compute
before a host update, where 44_host_register_clients.md gives them. No step reads this file. The bit positions of
these fields are in no source (91_not_in_source.md N18), so each function answers field values (log 16). -/

namespace Sys2Proof.HostClient

open Sys2Proof.Machine

/-- `clamp(x, lo, hi)` (00_scope.md R8); host setters clamp silently (R211). -/
def clamp (x lo hi : Int) : Int := if x < lo then lo else if x > hi then hi else x

/-- The 2-bit bucket of a blank time (R194). -/
def blankBucket (blankTime : Int) : BitVec 2 :=
  if blankTime ≥ 54 then 3#2 else if blankTime ≥ 36 then 2#2 else if blankTime ≥ 24 then 1#2 else 0#2

/-- The remembered and stored off-time (R194, R195). -/
def offTimeField (offTime : Int) : BitVec 4 := BitVec.ofInt 4 (clamp offTime 2 15)

/-- A value in -3..12 biased by 3 into an unsigned field: the sine offset (R194), the hysteresis end (R195). -/
def biasedField (x : Int) : BitVec 4 := BitVec.ofInt 4 (clamp x (-3) 12 + 3)

/-- The chopper mode and its fields; one mode at a time, so selecting one drops the other's (R196). -/
inductive ChopperMode where
  | constantOffTime (offTime : BitVec 4) (blank : BitVec 2) (fastDecayHigh : BitVec 1) (fastDecayLow : BitVec 3)
      (sineOffset : BitVec 4) (comparatorBit : BitVec 1)
  | spreadCycle (offTime : BitVec 4) (blank : BitVec 2) (hystStart : BitVec 3) (hystEnd : BitVec 4)
      (hystDecrement : BitVec 2)
  deriving DecidableEq, Repr

/-- `setConstantOffTimeChopper` (R194): the comparator bit is inverted, the fast decay split in two. -/
def constantOffTime (offTime blankTime fastDecayTime sineOffset : Int) (useComparator : Bool) : ChopperMode :=
  let decay : BitVec 4 := BitVec.ofInt 4 (clamp fastDecayTime 0 15)
  .constantOffTime (offTimeField offTime) (blankBucket blankTime) (decay.extractLsb' 3 1) (decay.extractLsb' 0 3)
    (biasedField sineOffset) (if useComparator then 0#1 else 1#1)

/-- `setSpreadCycleChopper` (R195). -/
def spreadCycle (offTime blankTime hystStart hystEnd hystDecrement : Int) : ChopperMode :=
  .spreadCycle (offTimeField offTime) (blankBucket blankTime) (BitVec.ofInt 3 (clamp hystStart 1 8 - 1))
    (biasedField hystEnd) (BitVec.ofInt 2 (clamp hystDecrement 0 3))

/-- The off-time sub-field `setEnabled` leaves: zero when disabling, the remembered one when enabling (R198). -/
def enabledOffTime (enable : Bool) (remembered : BitVec 4) : BitVec 4 := if enable then remembered else 0#4

/-- `isEnabled`: the off-time sub-field is nonzero (R198). -/
def isEnabled (offTime : BitVec 4) : Bool := offTime != 0#4

/-- The StallGuard sub-field: the low 7 bits of the threshold, clamped to its range -64..63, and the filter-enable bit
(R199, R211). -/
def stallGuardField (threshold : Int) (filterEnabled : Bool) : BitVec 7 × Bool :=
  (BitVec.ofInt 7 (clamp threshold (-64) 63), filterEnabled)

/-- `getStallGuardThreshold` (R200): `sext_7(field)`. -/
def stallGuardThreshold (field : BitVec 7) : Int := field.toInt

/-- A CoolStep threshold in hardware units: the input, clamped to its range 0..480, over 32, the rounding of an inexact
quotient FREE (R202, R211, N18). -/
def coolStepUnits (input : Int) : BitVec 4 :=
  let x := (clamp input 0 480).toNat
  if x % 32 ≠ 0 ∧ Config.freeCoolStepRoundsUp x = true then BitVec.ofNat 4 (x / 32 + 1) else BitVec.ofNat 4 (x / 32)

/-- The live lower-threshold sub-field: the remembered threshold while enabled, zero while disabled (R202-R204). -/
def coolStepLower (enabled : Bool) (remembered : BitVec 4) : BitVec 4 := if enabled then remembered else 0#4

/-- The CoolStep sub-fields of COOL, and the host's own record of the threshold and of `enabled` (R204). -/
structure CoolStep where
  liveLower : BitVec 4
  hysteresis : BitVec 4
  decStep : BitVec 2
  incStep : BitVec 2
  lowerCurrentLimitHalved : Bool
  rememberedLower : BitVec 4
  enabled : Bool
  deriving DecidableEq, Repr

/-- `setCoolStepConfiguration` (R202): every operand clamped to its range (R211), the lower threshold remembered
whether enabled or not and forced to 0 in the register while disabled. -/
def coolStepConfiguration (lowerSGThreshold sgHysteresis decStep incStep : Int) (lowerCurrentLimitHalved : Bool)
    (old : CoolStep) : CoolStep :=
  let lower := coolStepUnits lowerSGThreshold
  { liveLower := coolStepLower old.enabled lower
    hysteresis := coolStepUnits sgHysteresis
    decStep := BitVec.ofInt 2 (clamp decStep 0 3)
    incStep := BitVec.ofInt 2 (clamp incStep 0 3)
    lowerCurrentLimitHalved := lowerCurrentLimitHalved
    rememberedLower := lower
    enabled := old.enabled }

/-- `setCoolStepEnabled` (R203): the live lower threshold cleared, the remembered one back in if enabling; no other
sub-field disturbed. -/
def coolStepEnabled (enable : Bool) (old : CoolStep) : CoolStep :=
  { old with liveLower := coolStepLower enable old.rememberedLower, enabled := enable }

/-- The host's selector states (R206). -/
inductive Selector where
  | position | stallGuard | stallGuardAndCurrent
  deriving DecidableEq, Repr

/-- The value an accessor extracts from a status word read under its selector: ten bits, five for the current readout
(R207). -/
def readoutFor (sel : Selector) (status : Reg) : Nat :=
  match sel with
  | .position => (readoutValue status).toNat
  | .stallGuard => (readoutValue status).toNat
  | .stallGuardAndCurrent => (Machine.csReadout status).toNat

/-- `readStatus(which)` (R208): the host's record of what it armed last, the actions it presents, the new record.
The selector field's mask and the code of each selector are the host's own. -/
def readStatus (hostSelector which : Selector) (selMask : Reg) (code : Selector → Reg) (s : State) :
    List HostAction × Selector :=
  (Machine.readStatus (hostSelector != which) selMask (code which) s, which)

/-- `getOverTemperature` (R209): two flags, the way they combine FREE (N20). -/
def overTemperature (c : Config) (status : Reg) : Nat :=
  Config.freeOverTemperature (statusFlag c.flagPos .otWarning status) (statusFlag c.flagPos .otShutdown status)

/-- A host setter (R193): update the register's host-owned bits, then, if started, send the register. "Re-exchange on
change" leaves open whether an unchanged value is sent (91_not_in_source.md N18), "either is a legal host": the model
fixes neither and takes the host's choice as `onlyIfDifferent` (log 16). -/
def setter (onlyIfDifferent : Bool) (k : RegName) (mask bits : Reg) (s : State) : List HostAction :=
  let old := s.regs.get k
  let v := hostMerge old mask bits
  let send := s.started && (!onlyIfDifferent || v != old)
  .update k mask bits :: if send then [.command (encode (.exchange v.toNat))] else []

end Sys2Proof.HostClient
end

