-- ==== Sys2Proof/Safety.lean ====
section
/-! DEFINITION. What a good state and a safe run are, in the terms claims use. -/

namespace Sys2Proof.Machine

/-- `reg[k] & SIGMASK_k = SIG_k` for every k (10_state.md R22, R41 item 1). -/
def State.signaturesHold (s : State) : Bool :=
  RegName.all.all fun k => s.regs.get k &&& s.cfg.sigMask.get k == s.cfg.sig.get k

/-- `CS_N = 1`, `STEP = 0`, `DIR = 0` (10_state.md R35, R41 item 4). -/
def State.pinsIdle (s : State) : Bool := s.csN && !s.stepPin && !s.dirPin

/-- The invariants of 10_state.md R41 between commands, with the configuration legal (00_scope.md R7). Items 3 and 5
of R41 hold by the types. -/
structure State.Inv (s : State) : Prop where
  legalConfig : s.cfg.legal = true
  signatures : s.signaturesHold = true
  microstepCode : s.mres.toNat ≤ 8
  pinsIdle : s.pinsIdle = true

/-- The high reference is not stored with a scaling below 16: no pair `(cs, 0)` with `cs <= 15`, which the quantizer
never produces (41_current_quantizer.md R137 item 5). Nothing is said of the low reference: `(31, 1)` meets it too. -/
def State.scalingProduced (s : State) : Bool := s.vsense == 1#1 || decide (16 ≤ s.cs.toNat)

/-- A state of a safe run: the invariants hold and no DivideByZero has been answered ("a proof should carry 'no
DivideByZero so far'", 93_implementation_defined.md U2). -/
structure State.Safe (s : State) : Prop where
  inv : s.Inv
  noDivideByZero : s.divideByZeroSeen = false

/-- A trace made of whole exchanges and whole pulses, one after another (40_frame_codec.md R110, 42_step_scheduler.md
R152): no pulse inside a chip-select bracket, three transfers in each bracket, DIR released after a reverse pulse. -/
def traceWhole : List Event → Bool
  | [] => true
  | .pin .csN false :: .xfer _ _ :: .xfer _ _ :: .xfer _ _ :: .pin .csN true :: rest => traceWhole rest
  | .pin .step true :: .pin .step false :: rest => traceWhole rest
  | .pin .dir true :: .pin .step true :: .pin .step false :: .pin .dir false :: rest => traceWhole rest
  | _ => false

/-- A trace made of whole exchanges and whole pulses and of exchanges and reverse pulses that a reset cut short
(70_reset_and_hazards.md R250, R252): still no pulse and no exchange inside a chip-select bracket, at most three
transfers in each bracket, `CS_N`, `STEP` and `DIR` released after each. -/
def traceClosed : List Event → Bool
  | [] => true
  | .pin .csN false :: .pin .csN true :: rest => traceClosed rest
  | .pin .csN false :: .xfer _ _ :: .pin .csN true :: rest => traceClosed rest
  | .pin .csN false :: .xfer _ _ :: .xfer _ _ :: .pin .csN true :: rest => traceClosed rest
  | .pin .csN false :: .xfer _ _ :: .xfer _ _ :: .xfer _ _ :: .pin .csN true :: rest => traceClosed rest
  | .pin .step true :: .pin .step false :: rest => traceClosed rest
  | .pin .dir true :: .pin .dir false :: rest => traceClosed rest
  | .pin .dir true :: .pin .step true :: .pin .step false :: .pin .dir false :: rest => traceClosed rest
  | _ => false

/-- The five events of one exchange of `v` answered `r0 r1 r2` (40_frame_codec.md R110), the frame's bytes cut out of `v`
by position (30_encoding.md R85). -/
def bracket (v : Reg) (r0 r1 r2 : Byte) : List Event :=
  [ .pin .csN false, .xfer (0#4 ++ v.extractLsb' 16 4) r0, .xfer (v.extractLsb' 8 8) r1, .xfer (v.extractLsb' 0 8) r2,
    .pin .csN true ]

/-- The number of pulses in a trace: its `STEP(1)` events (00_scope.md R10). -/
def pulses (tr : List Event) : Nat := tr.countP fun e => e == .pin .step true

/-- The number of exchanges begun in a trace: its `CS_N(0)` events. -/
def exchanges (tr : List Event) : Nat := tr.countP fun e => e == .pin .csN false

/-- The number of completed byte transfers in a trace. -/
def transfers (tr : List Event) : Nat := tr.countP fun e => match e with | .xfer _ _ => true | .pin _ _ => false

/-- An event that takes a pin to its idle level (10_state.md R35). -/
def Event.idles (e : Event) : Bool := e == .pin .csN true || e == .pin .step false || e == .pin .dir false

/-- A host that polls: for each time, the time input reads it and a MOVE is presented. -/
def polls (times : List Word) : List HostAction :=
  times.flatMap fun t => [.timeReads t, .command (encode .move)]

/-- Polling at sufficient cadence: each poll at least `delay` after the one before, modulo 2^32, the first after
`last` (42_step_scheduler.md R161, R162). -/
def sufficientCadence (delay last : Word) : List Word → Bool
  | [] => true
  | t :: rest => decide (delay ≤ elapsed t last) && sufficientCadence delay t rest

end Sys2Proof.Machine
end

