-- ==== Sys2Proof/Certificates/Slice0/Obligations.lean ====
section
/-! DEFINITION. The statements for the provers, from the numbered rules of spec/. A result statement equates the next
state with a record update of the old one: every field it does not name is unchanged (its frame). The block has no
memory (20_memory.md R60), so no frame speaks of one. -/

open Sys2Proof Sys2Proof.Machine

/-! ### Encoding (30_encoding.md) -/

/-- R82, with the words of 95_test_vectors.md: one word of every family, written out. -/
def Obligations.WordsOfEveryFamilyDecode : Prop :=
  decode 0x10000E0050#40 = .ok (.exchange 0xE0050) ∧ decode 0x20000003E8#40 = .ok (.setCurrent 1000) ∧
  decode 0x30FFFFFFFF#40 = .ok (.step (-1)) ∧ decode 0x340000FFFB#40 = .ok (.setMicrosteps (-5)) ∧
  decode 0x4100000000#40 = .ok .unstart

/-- R80-R82: no bit of any command's encoding is dropped. -/
def Obligations.DecodeOfEncodeIsTheInstruction : Prop :=
  ∀ i : Instr, i.wellFormed = true → decode (encode i) = .ok i

/-- R80-R82: a word has one meaning, and what it decodes to is well formed and encodes back to it. -/
def Obligations.EncodeOfDecodeIsTheWord : Prop :=
  ∀ (w : CommandWord) (i : Instr), decode w = .ok i → i.wellFormed = true ∧ encode i = w

/-- R82: a word is the command of a row exactly when `w & mask = match`, and no two rows match the same word. -/
def Obligations.DecoderAcceptsExactlyTheTable : Prop :=
  (∀ (w : CommandWord) (i : Instr), decode w = .ok i →
    ∃ r ∈ opcodeTable, r.mnemonic = i.mnemonic ∧ w &&& r.mask = r.pattern) ∧
  (∀ (w : CommandWord), ∀ r ∈ opcodeTable, w &&& r.mask = r.pattern →
    ∃ i, decode w = .ok i ∧ i.mnemonic = r.mnemonic) ∧
  (∀ (w : CommandWord), ∀ r ∈ opcodeTable, ∀ r' ∈ opcodeTable,
    w &&& r.mask = r.pattern → w &&& r'.mask = r'.pattern → r = r')

/-- R83: the response word has `code` in bits 33:32 (0 OK, 1 BUSY, 2 ILLEGAL, 3 FAULT) and `data` in bits 31:0. -/
def Obligations.ResponseWordLayout : Prop :=
  ∀ r : Response,
    r.word.extractLsb' 0 32 = r.data ∧
    r.word.extractLsb' 32 2
      = (match r.code with | .ok => 0#2 | .busy => 1#2 | .illegal => 2#2 | .fault => 3#2)

/-- R92: `SEND k` presents one EXCHANGE of the present value of register k. -/
def Obligations.SendPresentsTheRegister : Prop :=
  ∀ (k : RegName) (s : State), ∃ w, sendRegister k s = [.command w] ∧ decode w = .ok (.exchange (s.regs.get k).toNat)

/-! ### The step and the ports -/

/-- R5: a step in a legal configuration, with a word presented that decodes to a command, performs that command on the
state with the word taken off the host's script. -/
def Obligations.StepRunsTheDecodedCommand : Prop :=
  ∀ (s : State) (w : CommandWord) (rest : List HostAction) (i : Instr),
    s.cfg.legal = true → s.host = .command w :: rest → decode w = .ok i → step s = exec i { s with host := rest }

/-- R84, R222 (log 6): a word that matches no row is refused by name. -/
def Obligations.IllegalWordIsRefusedByName : Prop :=
  ∀ (s : State) (w : CommandWord) (rest : List HostAction),
    s.cfg.legal = true → s.host = .command w :: rest → (∀ r ∈ opcodeTable, w &&& r.mask ≠ r.pattern) →
    step s = .refused (.illegalCommand w)

/-- R7: a configuration that breaks one of its clauses has no step. -/
def Obligations.IllegalConfigurationHasNoStep : Prop :=
  ∀ s : State,
    (s.cfg.stepsPerRev = 0 ∨ s.cfg.rSense = 0 ∨ s.cfg.posMres > 16 ∨ s.cfg.posCs > 15 ∨ s.cfg.posVsense > 19 ∨
      s.cfg.sigMask.msc &&& (0xF#20 <<< s.cfg.posMres) ≠ 0#20 ∨ s.cfg.sigMask.cur &&& (0x1F#20 <<< s.cfg.posCs) ≠ 0#20 ∨
      s.cfg.sigMask.drv.getLsbD s.cfg.posVsense = true ∨
      (∃ f, s.cfg.flagPos.pos f > 9) ∨ (∃ f g, f ≠ g ∧ s.cfg.flagPos.pos f = s.cfg.flagPos.pos g)) →
    step s = .refused .illegalConfiguration

/-- R5, R192, R232 (the model's form of the ports: log 7, log 8): with nothing presented nothing changes, and letting
time pass changes the time input alone. -/
def Obligations.IdleAndTimePassingChangeNoRegister : Prop :=
  ∀ s : State, s.cfg.legal = true →
    (s.host = [] → step s = .next s) ∧
    (∀ now rest, s.host = .timeReads now :: rest → step s = .next { s with host := rest, timeUs := now })

/-- R190, R191 (the refusal: log 13): an update within duties 1 and 2 replaces the masked bits of one register and
nothing else; one that breaks a duty has no transition. -/
def Obligations.HostUpdateReplacesMaskedBits : Prop :=
  ∀ (s : State) (k : RegName) (mask bits : Reg) (rest : List HostAction),
    s.cfg.legal = true → s.host = .update k mask bits :: rest →
    (mask &&& s.cfg.sigMask.get k = 0#20 ∧ mask &&& s.cfg.ownedMask k = 0#20 →
      step s = .next
        { s with host := rest, regs := s.regs.set k ((s.regs.get k &&& ~~~mask) ||| (bits &&& mask)) }) ∧
    (mask &&& s.cfg.sigMask.get k ≠ 0#20 ∨ mask &&& s.cfg.ownedMask k ≠ 0#20 →
      step s = .refused (.hostDutyBroken k mask))

/-- R40: the state after reset, every row of its table, in every legal configuration. -/
def Obligations.ResetStateIsTheTable : Prop :=
  ∀ c : Config, c.legal = true →
    let s := State.resetOf c
    (∀ k, s.regs.get k &&& c.sigMask.get k = c.sig.get k) ∧
    s.mres = c.resetMres ∧ c.resetMres.toNat ≤ 8 ∧ (s.cs, s.vsense) = quantize c.rSense c.initCurrentMa ∧
    (∀ k, s.regs.get k &&& ~~~(c.sigMask.get k ||| c.ownedMask k)
      = c.resetOther.get k &&& ~~~(c.sigMask.get k ||| c.ownedMask k)) ∧
    s.status = c.resetStatus ∧ s.stepsLeft = 0#32 ∧ s.direction = .forward ∧ s.stepDelay = c.resetStepDelay ∧
    s.lastStepTime = 0#32 ∧ s.nextStepTime = 0#32 ∧ s.rpm = c.resetRpm ∧ s.started = false ∧
    s.csN = true ∧ s.stepPin = false ∧ s.dirPin = false

/-- R250, R252 (the model's form of `rst`: log 9): a pulse of `rst` between two commands puts every register and pin at
its reset value, makes no exchange and no pulse, and changes no parameter; the trace grows by the pins that were not at
their idle levels, so by nothing where all three were. -/
def Obligations.ResetInputRestoresTheResetState : Prop :=
  ∀ (s : State) (rest : List HostAction), s.cfg.legal = true → s.host = .reset :: rest →
    step s = .next
      { State.resetOf s.cfg with
        timeUs := s.timeUs, host := rest, bus := s.bus, busTransfers := s.busTransfers
        trace := s.trace ++ (if s.csN = false then [.pin .csN true] else [])
          ++ (if s.stepPin = true then [.pin .step false] else []) ++ (if s.dirPin = true then [.pin .dir false] else [])
        responses := s.responses, divideByZeroSeen := s.divideByZeroSeen }

/-- R250, R252, R266 (the model's form of `rst` during a command: log 9): with the pins idle before it, a command cut by
`rst` after `n` of its output events leaves the reset state, those events in the trace, then only pins going to their
idle levels so that every bracket and pulse is closed, and no response; a command that would hang (R70, R265) is
released, the transfer it waited for given up. -/
def Obligations.ResetDuringACommandCutsItShort : Prop :=
  ∀ (s : State) (w : CommandWord) (n : Nat) (rest : List HostAction) (i : Instr),
    s.cfg.legal = true → s.pinsIdle = true → s.host = .resetDuring w n :: rest → decode w = .ok i →
    let leaves (made : List Event) (abandoned : Nat) : Prop :=
      ∃ released, released.all Event.idles = true ∧ traceClosed (made ++ released) = true ∧
        step s = .next
          { State.resetOf s.cfg with
            timeUs := s.timeUs, host := rest, bus := s.bus.drop (transfers made + abandoned)
            busTransfers := s.busTransfers + transfers made, trace := s.trace ++ made ++ released
            responses := s.responses, divideByZeroSeen := s.divideByZeroSeen }
    (∀ t, exec i { s with host := rest } = .next t →
      ∃ events, t.trace = s.trace ++ events ∧ leaves (events.take n) 0) ∧
    (∀ left, exec i { s with host := rest } = .fault (.busHung left) →
      ∃ events, left.trace = s.trace ++ events ∧ leaves (events.take n) (if events.length ≤ n then 1 else 0))

/-! ### Frame codec (40_frame_codec.md) -/

/-- R86: the reply's 24 bits shifted right by 4; where its readout and flag bits come from. -/
def Obligations.ReplyDecodesLeftAligned : Prop :=
  ∀ r0 r1 r2 : Byte,
    decodeReply r0 r1 r2 = (r0 ++ r1 ++ r2).extractLsb' 4 20 ∧
    readoutValue (decodeReply r0 r1 r2) = r0 ++ r1.extractLsb' 6 2 ∧
    flagBits (decodeReply r0 r1 r2) = r1.extractLsb' 0 6 ++ r2.extractLsb' 4 4

/-- R115: the frame encoder is injective with a first byte below 16; the reply decoder is onto and ignores the low
nibble; the two are not inverse: a loop-back decodes to `v >> 4`. -/
def Obligations.FrameRoundTripFacts : Prop :=
  (∀ v v' : Reg, encodeFrame v = encodeFrame v' → v = v') ∧
  (∀ v : Reg, (encodeFrame v).b0.toNat < 16) ∧
  (∀ (st : Reg) (n : BitVec 4),
    decodeReply (st.extractLsb' 12 8) (st.extractLsb' 4 8) (st.extractLsb' 0 4 ++ n) = st) ∧
  (∀ v : Reg, decodeReply (encodeFrame v).b0 (encodeFrame v).b1 (encodeFrame v).b2 = v >>> 4)

/-- R114, R190: the read port shows all five registers, `status` and `started`, and the decode outputs, which are
functions of the status word alone. -/
def Obligations.ReadPortShowsTheDecodedStatus : Prop :=
  ∀ s : State,
    (∀ k, s.readPort.regs.get k = s.regs.get k) ∧ s.readPort.status = s.status ∧ s.readPort.started = s.started ∧
    s.readPort.readout = s.status.extractLsb' 10 10 ∧
    s.readPort.csReadout = (s.readPort.readout &&& 0x1F#10).setWidth 5 ∧
    (∀ f, (f, s.status.getLsbD (s.cfg.flagPos.pos f)) ∈ s.readPort.flags)

/-- R110, R111: EXCHANGE, its result and its frame. -/
def Obligations.ExchangeSendsTheValueAndReturnsTheReply : Prop :=
  ∀ (value : Nat) (s : State), value < 2 ^ 20 → s.busAnswers 3 = true →
    exec (.exchange value) s = .next
      { s with
        status := decodeReply (s.replyByte 0) (s.replyByte 1) (s.replyByte 2)
        csN := true
        bus := s.bus.drop 3
        busTransfers := s.busTransfers + 3
        trace := s.trace ++ bracket (BitVec.ofNat 20 value) (s.replyByte 0) (s.replyByte 1) (s.replyByte 2)
        responses := s.responses
          ++ [⟨.ok, (decodeReply (s.replyByte 0) (s.replyByte 1) (s.replyByte 2)).setWidth 32⟩] }

/-- R113 (the fault that carries the state left: log 4): EXCHANGE completes exactly when its three transfers do, each
made once; otherwise it never completes: at the first transfer that is never answered `CS_N` is 0, the transfers before
it are made, and every other field is as it was, `status` and all motion state among them. -/
def Obligations.ExchangeHangsWithSelectLow : Prop :=
  ∀ (value : Nat) (s : State),
    (s.busAnswers 3 = true → ∃ t, exec (.exchange value) s = .next t ∧ t.busTransfers = s.busTransfers + 3) ∧
    (s.busAnswers 3 = false →
      ∃ k < 3, s.busAnswer k = .hang ∧ (∀ j < k, s.busAnswer j ≠ .hang) ∧
        exec (.exchange value) s = .fault (.busHung
          { s with
            csN := false
            bus := s.bus.drop k
            busTransfers := s.busTransfers + k
            trace := s.trace ++
              (bracket (BitVec.ofNat 20 value) (s.replyByte 0) (s.replyByte 1) (s.replyByte 2)).take (k + 1) }))

/-- R112: RD_STATUS, its result and its frame. -/
def Obligations.RdStatusReturnsTheCachedStatus : Prop :=
  ∀ s : State, exec .rdStatus s = .next { s with responses := s.responses ++ [⟨.ok, s.status.setWidth 32⟩] }

/-! ### Current quantizer (41_current_quantizer.md) -/

/-- R130, R131: the quantizer over the rationals, the test on the unclamped scaling, the clamp last; and the exact
integer form. -/
def Obligations.QuantizeIsTheFlooredFormula : Prop :=
  ∀ r i : Nat,
    let s310 := ⌊((r * i * 32 : ℕ) : ℚ) / 310000 - 1 / 2⌋
    let s165 := ⌊((r * i * 32 : ℕ) : ℚ) / 165000 - 1 / 2⌋
    s310 = (64 * r * i - 310000 : Int) / 620000 ∧ s165 = (64 * r * i - 165000 : Int) / 330000 ∧
    (s310 < 16 → quantize r i = (BitVec.ofInt 5 (max 0 (min 31 s165)), 1#1)) ∧
    (16 ≤ s310 → quantize r i = (BitVec.ofInt 5 (max 0 (min 31 s310)), 0#1))

/-- R137: the switch point, the bound of the low branch, monotone within a branch and not across the switch (with its
example), dependence on the product alone, and the pairs never produced; with the two ends R132 names. -/
def Obligations.QuantizeSwitchPoint : Prop :=
  (∀ r i : Nat,
    ((quantize r i).2 = 0#1 ↔ 159844 ≤ r * i) ∧
    ((quantize r i).2 = 1#1 → scaling 165 r i ≤ 30) ∧
    ((quantize r i).2 = 0#1 → 16 ≤ (quantize r i).1.toNat) ∧
    (r * i < 7735 → quantize r i = (0#5, 1#1)) ∧ (305157 ≤ r * i → quantize r i = (31#5, 0#1)) ∧
    (∀ r' i' : Nat, r' * i' = r * i → quantize r' i' = quantize r i) ∧
    (∀ r' i' : Nat, r * i ≤ r' * i' → (quantize r i).2 = (quantize r' i').2 →
      (quantize r i).1.toNat ≤ (quantize r' i').1.toNat)) ∧
  quantize 100 1598 = (30#5, 1#1) ∧ quantize 100 1599 = (16#5, 0#1) ∧
  readbackMa 100 30#5 1#1 = 1598 ∧ readbackMa 100 16#5 0#1 = 1646

/-- R132: SET_CURRENT, its result and its frame, not started and started; where a transfer of the first or the second
exchange hangs (R113, R70), the whole state left, with both fields already written; the fault that carries that state is
the model's form (log 4). -/
def Obligations.SetCurrentWritesAndSendsBothFields : Prop :=
  ∀ (mA : Nat) (s : State), mA < 2 ^ 16 →
    let q := quantize s.cfg.rSense mA
    let drv := setField s.cfg.posVsense s.regs.drv q.2
    let cur := setField s.cfg.posCs s.regs.cur q.1
    (s.started = false →
      exec (.setCurrent mA) s = .next
        { s with regs := { s.regs with drv := drv, cur := cur }, responses := s.responses ++ [⟨.ok, 0#32⟩] }) ∧
    (s.started = true → s.busAnswers 6 = true →
      exec (.setCurrent mA) s = .next
        { s with
          regs := { s.regs with drv := drv, cur := cur }
          status := decodeReply (s.replyByte 3) (s.replyByte 4) (s.replyByte 5)
          csN := true
          bus := s.bus.drop 6
          busTransfers := s.busTransfers + 6
          trace := s.trace ++ bracket drv (s.replyByte 0) (s.replyByte 1) (s.replyByte 2)
            ++ bracket cur (s.replyByte 3) (s.replyByte 4) (s.replyByte 5)
          responses := s.responses ++ [⟨.ok, 0#32⟩] }) ∧
    (s.started = true → s.busAnswers 3 = false →
      ∃ k < 3, s.busAnswer k = .hang ∧ (∀ j < k, s.busAnswer j ≠ .hang) ∧
        exec (.setCurrent mA) s = .fault (.busHung
          { s with
            regs := { s.regs with drv := drv, cur := cur }
            csN := false
            bus := s.bus.drop k
            busTransfers := s.busTransfers + k
            trace := s.trace ++ (bracket drv (s.replyByte 0) (s.replyByte 1) (s.replyByte 2)).take (k + 1) })) ∧
    (s.started = true → s.busAnswers 3 = true → s.busAnswers 6 = false →
      ∃ k < 3, s.busAnswer (k + 3) = .hang ∧ (∀ j < k, s.busAnswer (j + 3) ≠ .hang) ∧
        exec (.setCurrent mA) s = .fault (.busHung
          { s with
            regs := { s.regs with drv := drv, cur := cur }
            status := decodeReply (s.replyByte 0) (s.replyByte 1) (s.replyByte 2)
            csN := false
            bus := s.bus.drop (k + 3)
            busTransfers := s.busTransfers + (k + 3)
            trace := s.trace ++ bracket drv (s.replyByte 0) (s.replyByte 1) (s.replyByte 2)
              ++ (bracket cur (s.replyByte 3) (s.replyByte 4) (s.replyByte 5)).take (k + 1) }))

/-- R133: GET_CURRENT, its result (at most 310000, so exact in 32 bits) and its frame. -/
def Obligations.GetCurrentReadsTheStoredFieldsBack : Prop :=
  ∀ s : State, 1 ≤ s.cfg.rSense →
    let v := if s.vsense = 1#1 then 165 else 310
    let mA := (s.cs.toNat + 1) * v * 1000 / (32 * s.cfg.rSense)
    mA ≤ 310000 ∧ exec .getCurrent s = .next { s with responses := s.responses ++ [⟨.ok, BitVec.ofNat 32 mA⟩] }

/-- R136: with the reference chosen and the clamp not acting, GET_CURRENT straight after SET_CURRENT answers a value
`g` with `I - q/2 - 1 < g <= I + q/2`, q the step (both sides multiplied by 64*R). -/
def Obligations.ReadbackWithinHalfAStep : Prop :=
  ∀ (mA : Nat) (s t u : State), s.cfg.legal = true → mA < 2 ^ 16 →
    exec (.setCurrent mA) s = .next t → exec .getCurrent t = .next u →
    let v := if t.vsense = 1#1 then 165 else 310
    0 ≤ scaling v s.cfg.rSense mA → scaling v s.cfg.rSense mA ≤ 31 →
    ∃ g : Nat, g < 2 ^ 32 ∧ u.responses = t.responses ++ [⟨.ok, BitVec.ofNat 32 g⟩] ∧
      64 * s.cfg.rSense * g ≤ 64 * s.cfg.rSense * mA + 1000 * v ∧
      64 * s.cfg.rSense * mA < 64 * s.cfg.rSense * (g + 1) + 1000 * v

/-- R134, R135: IS_CURRENT_SCALING_HALFED and GET_RESISTOR, results and frames. -/
def Obligations.ReferenceAndResistorReads : Prop :=
  ∀ s : State,
    exec .isCurrentScalingHalfed s = .next
      { s with responses := s.responses ++ [⟨.ok, if s.vsense = 1#1 then 1#32 else 0#32⟩] } ∧
    exec .getResistor s = .next { s with responses := s.responses ++ [⟨.ok, BitVec.ofNat 32 s.cfg.rSense⟩] }

/-! ### Step scheduler (42_step_scheduler.md) -/

/-- R151: STEP, its result and its frame; Busy while Moving with nothing written; the count held exactly. -/
def Obligations.StepStoresCountAndSignOrAnswersBusy : Prop :=
  ∀ (count : Int) (s : State), -(2 ^ 31) ≤ count → count < 2 ^ 31 →
    (BitVec.ofNat 32 count.natAbs).toNat = count.natAbs ∧
    (s.stepsLeft = 0#32 →
      exec (.step count) s = .next
        { s with
          stepsLeft := BitVec.ofNat 32 count.natAbs
          direction := if 0 < count then .forward else if count < 0 then .reverse else s.direction
          responses := s.responses ++ [⟨.ok, 0#32⟩] }) ∧
    (s.stepsLeft ≠ 0#32 → exec (.step count) s = .next { s with responses := s.responses ++ [⟨.busy, 0#32⟩] })

/-- R152: MOVE, its result and its frame: nothing when no pulse is due; one pulse, forward or reverse, when one is. -/
def Obligations.MoveEmitsOnePulseWhenDue : Prop :=
  ∀ s : State,
    let due := s.stepsLeft ≠ 0#32 ∧
      s.stepDelay.toNat ≤ (s.timeUs.toNat + 2 ^ 32 - s.lastStepTime.toNat) % 2 ^ 32
    (¬ due → exec .move s = .next { s with responses := s.responses ++ [⟨.ok, 0#32⟩] }) ∧
    (due → s.direction = .forward →
      exec .move s = .next
        { s with
          stepsLeft := BitVec.ofNat 32 (s.stepsLeft.toNat - 1)
          lastStepTime := s.timeUs
          nextStepTime := BitVec.ofNat 32 (s.timeUs.toNat + s.stepDelay.toNat)
          stepPin := false
          trace := s.trace ++ [.pin .step true, .pin .step false]
          responses := s.responses ++ [⟨.ok, 0#32⟩] }) ∧
    (due → s.direction = .reverse →
      exec .move s = .next
        { s with
          stepsLeft := BitVec.ofNat 32 (s.stepsLeft.toNat - 1)
          lastStepTime := s.timeUs
          nextStepTime := BitVec.ofNat 32 (s.timeUs.toNat + s.stepDelay.toNat)
          stepPin := false
          dirPin := false
          trace := s.trace ++ [.pin .dir true, .pin .step true, .pin .step false, .pin .dir false]
          responses := s.responses ++ [⟨.ok, 0#32⟩] })

/-- R153: STOP, its result and its frame. -/
def Obligations.StopAbandonsTheMove : Prop :=
  ∀ s : State,
    exec .stop s = .next
      { s with
        stepsLeft := 0#32
        direction := .forward
        responses := s.responses ++ [⟨.ok, if s.stepsLeft = 0#32 then 0#32 else 1#32⟩] }

/-- R154, R155: SET_SPEED with a non-zero operand, its result and its frame; the quotient floored and exact. -/
def Obligations.SetSpeedStoresSpeedAndDelay : Prop :=
  ∀ (rpm : Nat) (s : State), 1 ≤ rpm → rpm < 2 ^ 16 → 1 ≤ s.cfg.stepsPerRev → s.mres.toNat ≤ 8 →
    let delay := 60000000 / (s.cfg.stepsPerRev * rpm * 2 ^ (8 - s.mres.toNat))
    delay ≤ 60000000 ∧
    exec (.setSpeed rpm) s = .next
      { s with
        rpm := BitVec.ofNat 16 rpm
        stepDelay := BitVec.ofNat 32 delay
        responses := s.responses ++ [⟨.ok, 0#32⟩] }

/-- R155, R220 (log 5; "a model should treat DivideByZero as a fault", R223: the sticky mark is the model's): SET_SPEED 0
answers (FAULT, 1) and writes nothing. -/
def Obligations.SetSpeedZeroAnswersFault : Prop :=
  ∀ s : State,
    exec (.setSpeed 0) s = .next { s with responses := s.responses ++ [⟨.fault, 1#32⟩], divideByZeroSeen := true }

/-- R156: the rounding table, every integer in one row, with its code. -/
def Obligations.MicrostepRoundingTable : Prop :=
  ∀ q : Int,
    (q ≤ 1 → microstepRound q = 1 ∧ microstepCode (microstepRound q) = 8#4) ∧
    (256 ≤ q → microstepRound q = 256 ∧ microstepCode (microstepRound q) = 0#4) ∧
    (∀ k : Nat, 1 ≤ k → k ≤ 7 → 2 ^ k ≤ q → q < 2 ^ (k + 1) →
      microstepRound q = 2 ^ k ∧ microstepCode (microstepRound q) = BitVec.ofNat 4 (8 - k))

/-- R157: SET_MICROSTEPS with a non-zero stored speed, its result and its frame, not started and started. -/
def Obligations.SetMicrostepsStoresSendsAndRecomputes : Prop :=
  ∀ (requested : Int) (s : State), -(2 ^ 15) ≤ requested → requested < 2 ^ 15 →
    s.cfg.posMres ≤ 16 → 1 ≤ s.cfg.stepsPerRev → s.rpm ≠ 0#16 →
    let m := microstepRound requested
    let msc := setField s.cfg.posMres s.regs.msc (BitVec.ofNat 4 (8 - Nat.log2 m))
    let delay := BitVec.ofNat 32 (60000000 / (s.cfg.stepsPerRev * s.rpm.toNat * m))
    (s.started = false →
      exec (.setMicrosteps requested) s = .next
        { s with
          regs := { s.regs with msc := msc }, stepDelay := delay, responses := s.responses ++ [⟨.ok, 0#32⟩] }) ∧
    (s.started = true → s.busAnswers 3 = true →
      exec (.setMicrosteps requested) s = .next
        { s with
          regs := { s.regs with msc := msc }
          stepDelay := delay
          status := decodeReply (s.replyByte 0) (s.replyByte 1) (s.replyByte 2)
          csN := true
          bus := s.bus.drop 3
          busTransfers := s.busTransfers + 3
          trace := s.trace ++ bracket msc (s.replyByte 0) (s.replyByte 1) (s.replyByte 2)
          responses := s.responses ++ [⟨.ok, 0#32⟩] })

/-- R157, R113 (the fault that carries the state left: log 4): SET_MICROSTEPS while started, whatever the stored speed,
0 included: where a transfer of its exchange hangs, the code is already written, `stepDelay` is as it was and there is
no response; the whole state left. -/
def Obligations.SetMicrostepsHangsWithTheCodeStored : Prop :=
  ∀ (requested : Int) (s : State), s.started = true → s.busAnswers 3 = false →
    let msc := setField s.cfg.posMres s.regs.msc (BitVec.ofNat 4 (8 - Nat.log2 (microstepRound requested)))
    ∃ k < 3, s.busAnswer k = .hang ∧ (∀ j < k, s.busAnswer j ≠ .hang) ∧
      exec (.setMicrosteps requested) s = .fault (.busHung
        { s with
          regs := { s.regs with msc := msc }
          csN := false
          bus := s.bus.drop k
          busTransfers := s.busTransfers + k
          trace := s.trace ++ (bracket msc (s.replyByte 0) (s.replyByte 1) (s.replyByte 2)).take (k + 1) })

/-- R157, R223 (log 5): SET_MICROSTEPS with a stored speed of 0 answers (FAULT, 1); the code stays stored, the exchange
made, `stepDelay` as it was. -/
def Obligations.SetMicrostepsWithZeroSpeedKeepsTheCode : Prop :=
  ∀ (requested : Int) (s : State), -(2 ^ 15) ≤ requested → requested < 2 ^ 15 → s.cfg.posMres ≤ 16 → s.rpm = 0#16 →
    let msc := setField s.cfg.posMres s.regs.msc (BitVec.ofNat 4 (8 - Nat.log2 (microstepRound requested)))
    (s.started = false →
      exec (.setMicrosteps requested) s = .next
        { s with
          regs := { s.regs with msc := msc }
          responses := s.responses ++ [⟨.fault, 1#32⟩]
          divideByZeroSeen := true }) ∧
    (s.started = true → s.busAnswers 3 = true →
      exec (.setMicrosteps requested) s = .next
        { s with
          regs := { s.regs with msc := msc }
          status := decodeReply (s.replyByte 0) (s.replyByte 1) (s.replyByte 2)
          csN := true
          bus := s.bus.drop 3
          busTransfers := s.busTransfers + 3
          trace := s.trace ++ bracket msc (s.replyByte 0) (s.replyByte 1) (s.replyByte 2)
          responses := s.responses ++ [⟨.fault, 1#32⟩]
          divideByZeroSeen := true })

/-- R158, R159, R160: IS_MOVING, GET_STEPS_LEFT, GET_MICROSTEPS, results and frames. -/
def Obligations.SchedulerReads : Prop :=
  ∀ s : State,
    exec .isMoving s = .next
      { s with responses := s.responses ++ [⟨.ok, if s.stepsLeft = 0#32 then 0#32 else 1#32⟩] } ∧
    exec .getStepsLeft s = .next { s with responses := s.responses ++ [⟨.ok, s.stepsLeft⟩] } ∧
    (s.mres.toNat ≤ 8 →
      exec .getMicrosteps s = .next
        { s with responses := s.responses ++ [⟨.ok, BitVec.ofNat 32 (2 ^ (8 - s.mres.toNat))⟩] })

/-- R88, U10 of 93_implementation_defined.md (log 12): where the stored code is 9 to 15, which no run reaches, the two
commands that need its count are refused by name. -/
def Obligations.CodesWithoutCountAreRefused : Prop :=
  ∀ s : State, 8 < s.mres.toNat →
    exec .getMicrosteps s = .refused (.microstepCodeWithoutCount s.mres) ∧
    (∀ rpm : Nat, 1 ≤ rpm → rpm < 2 ^ 16 → exec (.setSpeed rpm) s = .refused (.microstepCodeWithoutCount s.mres))

/-- R157, R160 (sub027 §8, 95_test_vectors.md S2, S6): GET_MICROSTEPS after SET_MICROSTEPS answers the rounded count.
That it does so too after a SET_MICROSTEPS that ended in DivideByZero is the model's choice (log 5): R223 says that no
claim about the hardware may rest on what follows one. -/
def Obligations.MicrostepsReadBackRounded : Prop :=
  ∀ (requested : Int) (s t : State), s.cfg.posMres ≤ 16 → exec (.setMicrosteps requested) s = .next t →
    exec .getMicrosteps t = .next
      { t with responses := t.responses ++ [⟨.ok, BitVec.ofNat 32 (microstepRound requested)⟩] }

/-! ### Lifecycle (43_lifecycle.md) -/

/-- R180, R181: START and UNSTART, results and frames. -/
def Obligations.StartAndUnstartSetTheFlagOnly : Prop :=
  ∀ s : State,
    exec .start s = .next { s with started := true, responses := s.responses ++ [⟨.ok, 0#32⟩] } ∧
    exec .unstart s = .next { s with started := false, responses := s.responses ++ [⟨.ok, 0#32⟩] }

/-! ### Frames over all commands -/

/-- R23, R24: no command writes a bit of the register set outside the three owned fields, and only SET_MICROSTEPS
writes MSC, only SET_CURRENT writes CUR and DRV. -/
def Obligations.CommandsWriteOnlyOwnedBits : Prop :=
  ∀ (i : Instr) (s t : State), exec i s = .next t →
    (∀ k, t.regs.get k &&& ~~~(s.cfg.ownedMask k) = s.regs.get k &&& ~~~(s.cfg.ownedMask k)) ∧
    t.regs.chop = s.regs.chop ∧ t.regs.cool = s.regs.cool ∧
    ((∀ q, i ≠ .setMicrosteps q) → t.regs.msc = s.regs.msc) ∧
    ((∀ mA, i ≠ .setCurrent mA) → t.regs.cur = s.regs.cur ∧ t.regs.drv = s.regs.drv)

/-- R116, R163: a command other than EXCHANGE, SET_CURRENT and SET_MICROSTEPS makes no exchange and leaves `status`,
`CS_N` and the bus alone; those two make none either while not started (R182). -/
def Obligations.OnlyTransmittingCommandsTouchTheBus : Prop :=
  ∀ (i : Instr) (s t : State), exec i s = .next t →
    (∀ v, i ≠ .exchange v) → (s.started = true → (∀ mA, i ≠ .setCurrent mA) ∧ ∀ q, i ≠ .setMicrosteps q) →
    t.status = s.status ∧ t.csN = s.csN ∧ t.bus = s.bus ∧ t.busTransfers = s.busTransfers ∧
      exchanges t.trace = exchanges s.trace

/-- R28-R32, R34, R150: which commands may write which piece of motion and lifecycle state; `STEP` and `DIR` by MOVE
alone (R35, R152); the parameters by none (R6, R250); the time input by none (R232). That the time input also stands
still during a command, where R192 lets it advance, is the model's choice (log 8), and so is the host's script, which no
command writes (log 7). -/
def Obligations.WritersOfMotionState : Prop :=
  ∀ (i : Instr) (s t : State), exec i s = .next t →
    ((∀ n, i ≠ .step n) → i ≠ .move → i ≠ .stop → t.stepsLeft = s.stepsLeft) ∧
    ((∀ n, i ≠ .step n) → i ≠ .stop → t.direction = s.direction) ∧
    ((∀ r, i ≠ .setSpeed r) → (∀ q, i ≠ .setMicrosteps q) → t.stepDelay = s.stepDelay) ∧
    (i ≠ .move → t.lastStepTime = s.lastStepTime ∧ t.nextStepTime = s.nextStepTime ∧
      t.stepPin = s.stepPin ∧ t.dirPin = s.dirPin) ∧
    ((∀ r, i ≠ .setSpeed r) → t.rpm = s.rpm) ∧
    (i ≠ .start → i ≠ .unstart → t.started = s.started) ∧
    t.cfg = s.cfg ∧ t.timeUs = s.timeUs ∧ t.host = s.host

/-- R83: a command that completes gives exactly one response. -/
def Obligations.OneResponsePerCompletedCommand : Prop :=
  ∀ (i : Instr) (s t : State), exec i s = .next t → ∃ r, t.responses = s.responses ++ [r]

/-- R220, R228 (the mark is the model's: log 5): the sticky mark never clears, and a command sets it exactly when it
answers (FAULT, 1), which only SET_SPEED and SET_MICROSTEPS do. -/
def Obligations.DivideByZeroMarkFollowsTheFaultResponse : Prop :=
  (∀ s t : State, step s = .next t → s.divideByZeroSeen = true → t.divideByZeroSeen = true) ∧
  (∀ (i : Instr) (s t : State), exec i s = .next t → s.divideByZeroSeen = false →
    (t.divideByZeroSeen = true ↔ t.responses = s.responses ++ [⟨.fault, 1#32⟩]) ∧
    (t.divideByZeroSeen = true → (∃ r, i = .setSpeed r) ∨ ∃ q, i = .setMicrosteps q))

/-- R161: only MOVE pulses, at most once, and each pulse is paid for by one count: but for STEP and STOP the pulses made
and the count left keep their sum. -/
def Obligations.PulsesAndCountBalance : Prop :=
  ∀ (i : Instr) (s t : State), exec i s = .next t →
    pulses t.trace ≤ pulses s.trace + 1 ∧ (i ≠ .move → pulses t.trace = pulses s.trace) ∧
    ((∀ n, i ≠ .step n) → i ≠ .stop →
      pulses t.trace + t.stepsLeft.toNat = pulses s.trace + s.stepsLeft.toNat)

/-! ### Whole-machine properties -/

/-- R224: in a state that meets the invariants, with a transport that answers, every command completes: no command is
refused for its operand, the mode or the status. That SET_SPEED 0, and SET_MICROSTEPS with a stored speed of 0, answer a
next state is the model's choice (log 5; R238 counts DivideByZero as a fault), and so is that an operand outside R81 is
cut to its width (log 14). -/
def Obligations.EveryCommandCompletesInAGoodState : Prop :=
  ∀ (i : Instr) (s : State), s.Inv → s.busAnswers 6 = true → ∃ t, exec i s = .next t

/-- R41: the invariants hold right after reset, and the high reference is not stored with a scaling below 16 (R137
item 5, R40), in the configuration of `State.reset`, which is the model's choice (log 2) and the spec's defaults
(log 15). -/
def Obligations.ResetMeetsTheInvariants : Prop := State.reset.Inv ∧ State.reset.scalingProduced = true

/-- R41, R40: the invariants hold right after reset in every legal configuration, whatever its open reset values, and the
high reference is not stored with a scaling below 16 (R137 item 5). -/
def Obligations.EveryLegalResetMeetsTheInvariants : Prop :=
  ∀ c : Config, c.legal = true → (State.resetOf c).Inv ∧ (State.resetOf c).scalingProduced = true

/-- R41: every step keeps the invariants: legal configuration, signatures in place, a microstep code of 0 to 8, pins
idle between commands. -/
def Obligations.EveryStepKeepsTheInvariants : Prop :=
  ∀ s t : State, s.Inv → step s = .next t → t.Inv

/-- R137 item 5: from a state that meets the invariants, no step stores the high reference with a scaling below 16. -/
def Obligations.EveryStepKeepsTheScalingProduced : Prop :=
  ∀ s t : State, s.Inv → s.scalingProduced = true → step s = .next t → t.scalingProduced = true

/-- R65, R69, R110, R152: from a state with its pins idle (an invariant of its own: EveryStepKeepsTheInvariants), every
step that no `rst` cuts keeps the trace a sequence of whole exchanges and whole pulses; and every step, one cut by `rst`
included, keeps it closed: no pulse and no other exchange falls inside a chip-select bracket, and all pins are released.
When `rst` may come and which pin events it makes is the model's choice (log 9). -/
def Obligations.EveryStepKeepsTheTraceWhole : Prop :=
  ∀ s t : State, s.pinsIdle = true → step s = .next t →
    ((∀ w n rest, s.host ≠ .resetDuring w n :: rest) → traceWhole s.trace = true → traceWhole t.trace = true) ∧
    (traceClosed s.trace = true → traceClosed t.trace = true)

/-- R6, R250: no step changes a parameter, `rst` included. -/
def Obligations.NoStepChangesAParameter : Prop :=
  ∀ s t : State, step s = .next t → t.cfg = s.cfg

/-- R161 (polling as a script of the host and the time input: the model's forms, log 7, log 8): a host that polls at
sufficient cadence drains the count one pulse a poll and gets exactly the pulses asked for, no more, no fewer; the
script left is what it presents next. -/
def Obligations.PollingEmitsExactlyTheRequestedPulses : Prop :=
  ∀ (times : List Word) (rest : List HostAction) (s : State),
    s.cfg.legal = true → s.host = polls times ++ rest →
    sufficientCadence s.stepDelay s.lastStepTime times = true →
    ∃ t, Sys2Proof.core.run (2 * times.length) s = .next t ∧ t.host = rest ∧
      t.stepsLeft.toNat = s.stepsLeft.toNat - times.length ∧
      pulses t.trace = pulses s.trace + min times.length s.stepsLeft.toNat

/-- R27: no command but RD_STATUS reads `status`: two states that differ in it alone go on alike, with the same
responses and traces. -/
def Obligations.StatusIsReadForNoDecision : Prop :=
  ∀ (i : Instr) (s t : State) (x : Reg), i ≠ .rdStatus → exec i s = .next t →
    ∃ y, exec i { s with status := x } = .next { t with status := y }

/-- R31: `nextStepTime` is read by no command: changing it changes no observable. -/
def Obligations.NextStepTimeIsUnobservable : Prop :=
  ∀ (i : Instr) (s t : State) (x : Word), exec i s = .next t →
    ∃ y, exec i { s with nextStepTime := x } = .next { t with nextStepTime := y }

/-- R24: host-owned bits decide nothing: two states whose registers agree in the three owned fields give the same
responses, motion state (all six of R20), status and pulses, and agree in the owned fields after. -/
def Obligations.HostBitsAreReadForNoDecision : Prop :=
  ∀ (i : Instr) (s t : State) (r : RegSet), s.cfg.legal = true →
    getField 4 s.cfg.posMres r.msc = s.mres → getField 5 s.cfg.posCs r.cur = s.cs →
    getField 1 s.cfg.posVsense r.drv = s.vsense → exec i s = .next t →
    ∃ t', exec i { s with regs := r } = .next t' ∧ t'.responses = t.responses ∧ t'.status = t.status ∧
      t'.stepsLeft = t.stepsLeft ∧ t'.direction = t.direction ∧ t'.stepDelay = t.stepDelay ∧
      t'.lastStepTime = t.lastStepTime ∧ t'.nextStepTime = t.nextStepTime ∧ t'.rpm = t.rpm ∧ t'.started = t.started ∧
      pulses t'.trace = pulses t.trace ∧ t'.mres = t.mres ∧ t'.cs = t.cs ∧ t'.vsense = t.vsense
end

