-- ==== Sys2Proof/Laws/Decode.lean ====
section
/-! SUPPORT. The laws of the command word's two fields (30_encoding.md R80): what `encode` puts there, the decoder
finds. -/

namespace Sys2Proof

theorem and_append (a c : BitVec 8) (b d : BitVec 32) : (a ++ b) &&& (c ++ d) = (a &&& c) ++ (b &&& d) := by
  apply BitVec.eq_of_getLsbD_eq
  intro i hi
  simp only [BitVec.getLsbD_and, BitVec.getLsbD_append]
  split <;> rfl

theorem opField_append (a : BitVec 8) (b : BitVec 32) : opField (a ++ b) = a := by
  apply BitVec.eq_of_getLsbD_eq
  intro i hi
  simp only [opField, BitVec.getLsbD_extractLsb', BitVec.getLsbD_append]
  rw [if_neg (by omega)]
  simp [hi]

theorem argField_append (a : BitVec 8) (b : BitVec 32) : argField (a ++ b) = b := by
  apply BitVec.eq_of_getLsbD_eq
  intro i hi
  simp only [argField, BitVec.getLsbD_extractLsb', BitVec.getLsbD_append]
  rw [if_pos (by omega)]
  simp [hi]

theorem setWidth_shift {n : Nat} (v : BitVec n) (k : Nat) (h : n ≤ k) : (v.setWidth 32) >>> k = 0#32 := by
  apply BitVec.eq_of_getLsbD_eq
  intro i hi
  simp [BitVec.getLsbD_of_ge v (k + i) (by omega)]

theorem and_above20 (v : BitVec 20) : v.setWidth 32 &&& 0xFFF00000#32 = 0#32 := by
  apply BitVec.eq_of_getLsbD_eq
  intro i hi
  by_cases h : i < 20
  · interval_cases i <;> simp
  · simp [BitVec.getLsbD_of_ge v i (by omega)]

theorem and_above16 (v : BitVec 16) : v.setWidth 32 &&& 0xFFFF0000#32 = 0#32 := by
  apply BitVec.eq_of_getLsbD_eq
  intro i hi
  by_cases h : i < 16
  · interval_cases i <;> simp
  · simp [BitVec.getLsbD_of_ge v i (by omega)]

@[simp] theorem opField_encode (i : Instr) : opField (encode i) = i.opcode := opField_append _ _

@[simp] theorem argField_encode (i : Instr) : argField (encode i) = i.operandBits := argField_append _ _

theorem ifUnusedZero_eq_ok {op : BitVec 8} {arg : Word} {used : Nat} {i j : Instr} :
    ifUnusedZero op arg used i = .ok j ↔ arg >>> used = 0#32 ∧ i = j := by
  unfold ifUnusedZero
  split <;> simp_all

end Sys2Proof
end

