-- ==== Sys2Proof/Laws/Fields.lean ====
section
/-! SUPPORT. The laws of field insertion, field extraction and the host's merge (30_encoding.md R90,
44_host_register_clients.md R190), bit by bit. -/

namespace Sys2Proof

theorem fieldMask_getLsbD (pos w i : Nat) :
    (fieldMask pos w).getLsbD i = decide (pos ≤ i ∧ i < pos + w ∧ i < 20) := by
  simp only [fieldMask, BitVec.getLsbD_shiftLeft, BitVec.getLsbD_setWidth, BitVec.getLsbD_allOnes]
  rw [Bool.eq_iff_iff]
  simp
  omega

theorem setField_getLsbD {w : Nat} (pos : Nat) (r : Reg) (c : BitVec w) (i : Nat) :
    (setField pos r c).getLsbD i
      = if pos ≤ i ∧ i < pos + w ∧ i < 20 then c.getLsbD (i - pos) else r.getLsbD i := by
  simp only [setField, BitVec.getLsbD_or, BitVec.getLsbD_and, BitVec.getLsbD_not, fieldMask_getLsbD,
    BitVec.getLsbD_shiftLeft, BitVec.getLsbD_setWidth]
  by_cases h2 : i < 20
  · by_cases h : i < pos
    · have h' : ¬ pos ≤ i := by omega
      simp [h, h', h2]
    · by_cases h3 : i < pos + w
      · have : i - pos < 20 := by omega
        simp [h, h2, h3, this, Nat.le_of_not_lt h]
      · have : w ≤ i - pos := by omega
        simp [h, h2, h3, BitVec.getLsbD_of_ge c _ this]
  · simp [h2, BitVec.getLsbD_of_ge r i (by omega)]

theorem getField_setField {w : Nat} {pos : Nat} (r : Reg) (c : BitVec w) (h : pos + w ≤ 20) :
    getField w pos (setField pos r c) = c := by
  apply BitVec.eq_of_getLsbD_eq
  intro i hi
  simp only [getField, BitVec.getLsbD_setWidth, BitVec.getLsbD_ushiftRight, setField_getLsbD]
  rw [if_pos (by omega)]
  simp [hi]

theorem setField_outside {w : Nat} (pos : Nat) (r : Reg) (c : BitVec w) :
    setField pos r c &&& ~~~(fieldMask pos w) = r &&& ~~~(fieldMask pos w) := by
  apply BitVec.eq_of_getLsbD_eq
  intro i hi
  simp only [BitVec.getLsbD_and, BitVec.getLsbD_not, fieldMask_getLsbD, setField_getLsbD]
  split <;> simp_all

theorem setField_under {w : Nat} (pos : Nat) (r : Reg) (c : BitVec w) {mask : Reg}
    (h : mask &&& fieldMask pos w = 0#20) : setField pos r c &&& mask = r &&& mask := by
  apply BitVec.eq_of_getLsbD_eq
  intro i hi
  have hb : (mask &&& fieldMask pos w).getLsbD i = false := by rw [h]; simp
  simp only [BitVec.getLsbD_and, fieldMask_getLsbD] at hb
  simp only [BitVec.getLsbD_and, setField_getLsbD]
  split <;> simp_all

theorem getField_merge {w pos : Nat} (r mask bits : Reg) (h : mask &&& fieldMask pos w = 0#20) :
    getField w pos (hostMerge r mask bits) = getField w pos r := by
  apply BitVec.eq_of_getLsbD_eq
  intro i hi
  have hb : (mask &&& fieldMask pos w).getLsbD (pos + i) = false := by rw [h]; simp
  simp only [BitVec.getLsbD_and, fieldMask_getLsbD] at hb
  simp only [getField, hostMerge, BitVec.getLsbD_setWidth, BitVec.getLsbD_ushiftRight, BitVec.getLsbD_or,
    BitVec.getLsbD_and, BitVec.getLsbD_not]
  by_cases h2 : pos + i < 20
  · simp_all
  · simp [BitVec.getLsbD_of_ge _ _ (Nat.not_lt.1 h2)]

theorem hostMerge_under {r mask bits m : Reg} (h : mask &&& m = 0#20) : hostMerge r mask bits &&& m = r &&& m := by
  apply BitVec.eq_of_getLsbD_eq
  intro i hi
  have hb : (mask &&& m).getLsbD i = false := by rw [h]; simp
  simp only [BitVec.getLsbD_and] at hb
  simp only [hostMerge, BitVec.getLsbD_or, BitVec.getLsbD_and, BitVec.getLsbD_not]
  cases h1 : mask.getLsbD i <;> simp_all

@[simp] theorem RegSet.get_set (r : RegSet) (k : RegName) (v : Reg) : (r.set k v).get k = v := by cases k <;> rfl

theorem RegSet.get_set_ne (r : RegSet) {k j : RegName} (v : Reg) (h : j ≠ k) : (r.set k v).get j = r.get j := by
  cases k <;> cases j <;> first | rfl | exact absurd rfl h

end Sys2Proof
end

