-- ==== Sys2Proof/Laws/State.lean ====
section
/-! SUPPORT. One lemma per field per update of State: what `drivePin`, the owned-field writes, `respondWith` and the
pulse leave and set. -/

namespace Sys2Proof.Machine

variable (s : State)

/-! ### `drivePin` -/

@[simp] theorem State.drivePin_cfg (p : Pin) (l : Bool) : (s.drivePin p l).cfg = s.cfg := by cases p <;> rfl
@[simp] theorem State.drivePin_regs (p : Pin) (l : Bool) : (s.drivePin p l).regs = s.regs := by cases p <;> rfl
@[simp] theorem State.drivePin_status (p : Pin) (l : Bool) : (s.drivePin p l).status = s.status := by cases p <;> rfl
@[simp] theorem State.drivePin_stepsLeft (p : Pin) (l : Bool) : (s.drivePin p l).stepsLeft = s.stepsLeft := by cases p <;> rfl
@[simp] theorem State.drivePin_direction (p : Pin) (l : Bool) : (s.drivePin p l).direction = s.direction := by cases p <;> rfl
@[simp] theorem State.drivePin_stepDelay (p : Pin) (l : Bool) : (s.drivePin p l).stepDelay = s.stepDelay := by cases p <;> rfl
@[simp] theorem State.drivePin_lastStepTime (p : Pin) (l : Bool) : (s.drivePin p l).lastStepTime = s.lastStepTime := by cases p <;> rfl
@[simp] theorem State.drivePin_nextStepTime (p : Pin) (l : Bool) : (s.drivePin p l).nextStepTime = s.nextStepTime := by cases p <;> rfl
@[simp] theorem State.drivePin_rpm (p : Pin) (l : Bool) : (s.drivePin p l).rpm = s.rpm := by cases p <;> rfl
@[simp] theorem State.drivePin_started (p : Pin) (l : Bool) : (s.drivePin p l).started = s.started := by cases p <;> rfl
@[simp] theorem State.drivePin_csN_csN (l : Bool) : (s.drivePin .csN l).csN = l := rfl
@[simp] theorem State.drivePin_step_csN (l : Bool) : (s.drivePin .step l).csN = s.csN := rfl
@[simp] theorem State.drivePin_dir_csN (l : Bool) : (s.drivePin .dir l).csN = s.csN := rfl
@[simp] theorem State.drivePin_csN_stepPin (l : Bool) : (s.drivePin .csN l).stepPin = s.stepPin := rfl
@[simp] theorem State.drivePin_step_stepPin (l : Bool) : (s.drivePin .step l).stepPin = l := rfl
@[simp] theorem State.drivePin_dir_stepPin (l : Bool) : (s.drivePin .dir l).stepPin = s.stepPin := rfl
@[simp] theorem State.drivePin_csN_dirPin (l : Bool) : (s.drivePin .csN l).dirPin = s.dirPin := rfl
@[simp] theorem State.drivePin_step_dirPin (l : Bool) : (s.drivePin .step l).dirPin = s.dirPin := rfl
@[simp] theorem State.drivePin_dir_dirPin (l : Bool) : (s.drivePin .dir l).dirPin = l := rfl
@[simp] theorem State.drivePin_timeUs (p : Pin) (l : Bool) : (s.drivePin p l).timeUs = s.timeUs := by cases p <;> rfl
@[simp] theorem State.drivePin_host (p : Pin) (l : Bool) : (s.drivePin p l).host = s.host := by cases p <;> rfl
@[simp] theorem State.drivePin_bus (p : Pin) (l : Bool) : (s.drivePin p l).bus = s.bus := by cases p <;> rfl
@[simp] theorem State.drivePin_busTransfers (p : Pin) (l : Bool) : (s.drivePin p l).busTransfers = s.busTransfers := by cases p <;> rfl
@[simp] theorem State.drivePin_trace (p : Pin) (l : Bool) :
    (s.drivePin p l).trace = s.trace ++ [Event.pin p l] := by cases p <;> rfl
@[simp] theorem State.drivePin_responses (p : Pin) (l : Bool) : (s.drivePin p l).responses = s.responses := by cases p <;> rfl
@[simp] theorem State.drivePin_divideByZeroSeen (p : Pin) (l : Bool) : (s.drivePin p l).divideByZeroSeen = s.divideByZeroSeen := by cases p <;> rfl

/-! ### `setMres` -/

@[simp] theorem State.setMres_cfg (c : BitVec 4) : (s.setMres c).cfg = s.cfg := rfl
@[simp] theorem State.setMres_regs (c : BitVec 4) :
    (s.setMres c).regs = { s.regs with msc := setField s.cfg.posMres s.regs.msc c } := rfl
@[simp] theorem State.setMres_status (c : BitVec 4) : (s.setMres c).status = s.status := rfl
@[simp] theorem State.setMres_stepsLeft (c : BitVec 4) : (s.setMres c).stepsLeft = s.stepsLeft := rfl
@[simp] theorem State.setMres_direction (c : BitVec 4) : (s.setMres c).direction = s.direction := rfl
@[simp] theorem State.setMres_stepDelay (c : BitVec 4) : (s.setMres c).stepDelay = s.stepDelay := rfl
@[simp] theorem State.setMres_lastStepTime (c : BitVec 4) : (s.setMres c).lastStepTime = s.lastStepTime := rfl
@[simp] theorem State.setMres_nextStepTime (c : BitVec 4) : (s.setMres c).nextStepTime = s.nextStepTime := rfl
@[simp] theorem State.setMres_rpm (c : BitVec 4) : (s.setMres c).rpm = s.rpm := rfl
@[simp] theorem State.setMres_started (c : BitVec 4) : (s.setMres c).started = s.started := rfl
@[simp] theorem State.setMres_csN (c : BitVec 4) : (s.setMres c).csN = s.csN := rfl
@[simp] theorem State.setMres_stepPin (c : BitVec 4) : (s.setMres c).stepPin = s.stepPin := rfl
@[simp] theorem State.setMres_dirPin (c : BitVec 4) : (s.setMres c).dirPin = s.dirPin := rfl
@[simp] theorem State.setMres_timeUs (c : BitVec 4) : (s.setMres c).timeUs = s.timeUs := rfl
@[simp] theorem State.setMres_host (c : BitVec 4) : (s.setMres c).host = s.host := rfl
@[simp] theorem State.setMres_bus (c : BitVec 4) : (s.setMres c).bus = s.bus := rfl
@[simp] theorem State.setMres_busTransfers (c : BitVec 4) : (s.setMres c).busTransfers = s.busTransfers := rfl
@[simp] theorem State.setMres_trace (c : BitVec 4) : (s.setMres c).trace = s.trace := rfl
@[simp] theorem State.setMres_responses (c : BitVec 4) : (s.setMres c).responses = s.responses := rfl
@[simp] theorem State.setMres_divideByZeroSeen (c : BitVec 4) : (s.setMres c).divideByZeroSeen = s.divideByZeroSeen := rfl

/-! ### `setCs` -/

@[simp] theorem State.setCs_cfg (c : BitVec 5) : (s.setCs c).cfg = s.cfg := rfl
@[simp] theorem State.setCs_regs (c : BitVec 5) :
    (s.setCs c).regs = { s.regs with cur := setField s.cfg.posCs s.regs.cur c } := rfl
@[simp] theorem State.setCs_status (c : BitVec 5) : (s.setCs c).status = s.status := rfl
@[simp] theorem State.setCs_stepsLeft (c : BitVec 5) : (s.setCs c).stepsLeft = s.stepsLeft := rfl
@[simp] theorem State.setCs_direction (c : BitVec 5) : (s.setCs c).direction = s.direction := rfl
@[simp] theorem State.setCs_stepDelay (c : BitVec 5) : (s.setCs c).stepDelay = s.stepDelay := rfl
@[simp] theorem State.setCs_lastStepTime (c : BitVec 5) : (s.setCs c).lastStepTime = s.lastStepTime := rfl
@[simp] theorem State.setCs_nextStepTime (c : BitVec 5) : (s.setCs c).nextStepTime = s.nextStepTime := rfl
@[simp] theorem State.setCs_rpm (c : BitVec 5) : (s.setCs c).rpm = s.rpm := rfl
@[simp] theorem State.setCs_started (c : BitVec 5) : (s.setCs c).started = s.started := rfl
@[simp] theorem State.setCs_csN (c : BitVec 5) : (s.setCs c).csN = s.csN := rfl
@[simp] theorem State.setCs_stepPin (c : BitVec 5) : (s.setCs c).stepPin = s.stepPin := rfl
@[simp] theorem State.setCs_dirPin (c : BitVec 5) : (s.setCs c).dirPin = s.dirPin := rfl
@[simp] theorem State.setCs_timeUs (c : BitVec 5) : (s.setCs c).timeUs = s.timeUs := rfl
@[simp] theorem State.setCs_host (c : BitVec 5) : (s.setCs c).host = s.host := rfl
@[simp] theorem State.setCs_bus (c : BitVec 5) : (s.setCs c).bus = s.bus := rfl
@[simp] theorem State.setCs_busTransfers (c : BitVec 5) : (s.setCs c).busTransfers = s.busTransfers := rfl
@[simp] theorem State.setCs_trace (c : BitVec 5) : (s.setCs c).trace = s.trace := rfl
@[simp] theorem State.setCs_responses (c : BitVec 5) : (s.setCs c).responses = s.responses := rfl
@[simp] theorem State.setCs_divideByZeroSeen (c : BitVec 5) : (s.setCs c).divideByZeroSeen = s.divideByZeroSeen := rfl

/-! ### `setVsense` -/

@[simp] theorem State.setVsense_cfg (v : BitVec 1) : (s.setVsense v).cfg = s.cfg := rfl
@[simp] theorem State.setVsense_regs (v : BitVec 1) :
    (s.setVsense v).regs = { s.regs with drv := setField s.cfg.posVsense s.regs.drv v } := rfl
@[simp] theorem State.setVsense_status (v : BitVec 1) : (s.setVsense v).status = s.status := rfl
@[simp] theorem State.setVsense_stepsLeft (v : BitVec 1) : (s.setVsense v).stepsLeft = s.stepsLeft := rfl
@[simp] theorem State.setVsense_direction (v : BitVec 1) : (s.setVsense v).direction = s.direction := rfl
@[simp] theorem State.setVsense_stepDelay (v : BitVec 1) : (s.setVsense v).stepDelay = s.stepDelay := rfl
@[simp] theorem State.setVsense_lastStepTime (v : BitVec 1) : (s.setVsense v).lastStepTime = s.lastStepTime := rfl
@[simp] theorem State.setVsense_nextStepTime (v : BitVec 1) : (s.setVsense v).nextStepTime = s.nextStepTime := rfl
@[simp] theorem State.setVsense_rpm (v : BitVec 1) : (s.setVsense v).rpm = s.rpm := rfl
@[simp] theorem State.setVsense_started (v : BitVec 1) : (s.setVsense v).started = s.started := rfl
@[simp] theorem State.setVsense_csN (v : BitVec 1) : (s.setVsense v).csN = s.csN := rfl
@[simp] theorem State.setVsense_stepPin (v : BitVec 1) : (s.setVsense v).stepPin = s.stepPin := rfl
@[simp] theorem State.setVsense_dirPin (v : BitVec 1) : (s.setVsense v).dirPin = s.dirPin := rfl
@[simp] theorem State.setVsense_timeUs (v : BitVec 1) : (s.setVsense v).timeUs = s.timeUs := rfl
@[simp] theorem State.setVsense_host (v : BitVec 1) : (s.setVsense v).host = s.host := rfl
@[simp] theorem State.setVsense_bus (v : BitVec 1) : (s.setVsense v).bus = s.bus := rfl
@[simp] theorem State.setVsense_busTransfers (v : BitVec 1) : (s.setVsense v).busTransfers = s.busTransfers := rfl
@[simp] theorem State.setVsense_trace (v : BitVec 1) : (s.setVsense v).trace = s.trace := rfl
@[simp] theorem State.setVsense_responses (v : BitVec 1) : (s.setVsense v).responses = s.responses := rfl
@[simp] theorem State.setVsense_divideByZeroSeen (v : BitVec 1) : (s.setVsense v).divideByZeroSeen = s.divideByZeroSeen := rfl

/-! ### `respondWith` -/

@[simp] theorem State.respondWith_cfg (r : Response) : (s.respondWith r).cfg = s.cfg := rfl
@[simp] theorem State.respondWith_regs (r : Response) : (s.respondWith r).regs = s.regs := rfl
@[simp] theorem State.respondWith_status (r : Response) : (s.respondWith r).status = s.status := rfl
@[simp] theorem State.respondWith_stepsLeft (r : Response) : (s.respondWith r).stepsLeft = s.stepsLeft := rfl
@[simp] theorem State.respondWith_direction (r : Response) : (s.respondWith r).direction = s.direction := rfl
@[simp] theorem State.respondWith_stepDelay (r : Response) : (s.respondWith r).stepDelay = s.stepDelay := rfl
@[simp] theorem State.respondWith_lastStepTime (r : Response) : (s.respondWith r).lastStepTime = s.lastStepTime := rfl
@[simp] theorem State.respondWith_nextStepTime (r : Response) : (s.respondWith r).nextStepTime = s.nextStepTime := rfl
@[simp] theorem State.respondWith_rpm (r : Response) : (s.respondWith r).rpm = s.rpm := rfl
@[simp] theorem State.respondWith_started (r : Response) : (s.respondWith r).started = s.started := rfl
@[simp] theorem State.respondWith_csN (r : Response) : (s.respondWith r).csN = s.csN := rfl
@[simp] theorem State.respondWith_stepPin (r : Response) : (s.respondWith r).stepPin = s.stepPin := rfl
@[simp] theorem State.respondWith_dirPin (r : Response) : (s.respondWith r).dirPin = s.dirPin := rfl
@[simp] theorem State.respondWith_timeUs (r : Response) : (s.respondWith r).timeUs = s.timeUs := rfl
@[simp] theorem State.respondWith_host (r : Response) : (s.respondWith r).host = s.host := rfl
@[simp] theorem State.respondWith_bus (r : Response) : (s.respondWith r).bus = s.bus := rfl
@[simp] theorem State.respondWith_busTransfers (r : Response) : (s.respondWith r).busTransfers = s.busTransfers := rfl
@[simp] theorem State.respondWith_trace (r : Response) : (s.respondWith r).trace = s.trace := rfl
@[simp] theorem State.respondWith_responses (r : Response) : (s.respondWith r).responses = s.responses ++ [r] := rfl
@[simp] theorem State.respondWith_divideByZeroSeen (r : Response) : (s.respondWith r).divideByZeroSeen = s.divideByZeroSeen := rfl

/-! ### The derived fields read only the configuration and their register -/

@[simp] theorem State.respondWith_mres (r : Response) : (s.respondWith r).mres = s.mres := rfl
@[simp] theorem State.respondWith_cs (r : Response) : (s.respondWith r).cs = s.cs := rfl
@[simp] theorem State.respondWith_vsense (r : Response) : (s.respondWith r).vsense = s.vsense := rfl
@[simp] theorem State.drivePin_mres (p : Pin) (l : Bool) : (s.drivePin p l).mres = s.mres := by cases p <;> rfl
@[simp] theorem State.drivePin_cs (p : Pin) (l : Bool) : (s.drivePin p l).cs = s.cs := by cases p <;> rfl
@[simp] theorem State.drivePin_vsense (p : Pin) (l : Bool) : (s.drivePin p l).vsense = s.vsense := by cases p <;> rfl
@[simp] theorem State.setCs_mres (c : BitVec 5) : (s.setCs c).mres = s.mres := rfl
@[simp] theorem State.setCs_vsense (c : BitVec 5) : (s.setCs c).vsense = s.vsense := rfl
@[simp] theorem State.setVsense_mres (v : BitVec 1) : (s.setVsense v).mres = s.mres := rfl
@[simp] theorem State.setVsense_cs (v : BitVec 1) : (s.setVsense v).cs = s.cs := rfl
@[simp] theorem State.setMres_cs (c : BitVec 4) : (s.setMres c).cs = s.cs := rfl
@[simp] theorem State.setMres_vsense (c : BitVec 4) : (s.setMres c).vsense = s.vsense := rfl
@[simp] theorem State.respondWith_moving (r : Response) : (s.respondWith r).moving = s.moving := rfl

end Sys2Proof.Machine
end

