-- ==== Sys2Proof/Laws/Ops.lean ====
section
/-! SUPPORT. What each shared operation can do, said once: chaining, error causes, the byte transport, the exchange
procedure, the speed computation. -/

namespace Sys2Proof.Machine

/-! ### Chaining and responding -/

@[simp] theorem andThen_next (s : State) (k : State → Result) : andThen (.next s) k = k s := rfl
@[simp] theorem andThen_fault (f : Fault) (k : State → Result) : andThen (.fault f) k = .fault f := rfl
@[simp] theorem andThen_refused (r : Refusal) (k : State → Result) : andThen (.refused r) k = .refused r := rfl

theorem andThen_eq_next {o : Result} {k : State → Result} {t : State} (h : andThen o k = .next t) :
    ∃ s, o = .next s ∧ k s = .next t := by
  cases o with
  | next s => exact ⟨s, rfl, h⟩
  | fault f => cases h
  | refused r => cases h

theorem respondOk_eq (d : Word) (s : State) : respondOk d s = .next (s.respondWith { code := .ok, data := d }) := rfl

theorem raise_busy (s : State) : raise .busy s = .next (s.respondWith { code := .busy, data := 0#32 }) := by
  simp [raise, Cause.response, State.respondWith]

theorem raise_divideByZero (s : State) :
    raise .divideByZero s
      = .next { s.respondWith { code := .fault, data := 1#32 } with divideByZeroSeen := true } := by
  simp [raise, Cause.response]

/-! ### The byte transport -/

@[simp] theorem busAnswer_transferred (s : State) (tx rx : Byte) (k : Nat) :
    (s.transferred tx rx).busAnswer k = s.busAnswer (k + 1) := by
  simp only [State.busAnswer, State.transferred, List.getElem?_tail]
  rw [show s.busTransfers + 1 + k = s.busTransfers + (k + 1) by omega]

@[simp] theorem busAnswer_drivePin (s : State) (p : Pin) (l : Bool) (k : Nat) :
    (s.drivePin p l).busAnswer k = s.busAnswer k := by
  simp [State.busAnswer]

@[simp] theorem busAnswer_setMres (s : State) (c : BitVec 4) (k : Nat) : (s.setMres c).busAnswer k = s.busAnswer k := rfl
@[simp] theorem busAnswer_setCs (s : State) (c : BitVec 5) (k : Nat) : (s.setCs c).busAnswer k = s.busAnswer k := rfl
@[simp] theorem busAnswer_setVsense (s : State) (v : BitVec 1) (k : Nat) :
    (s.setVsense v).busAnswer k = s.busAnswer k := rfl

theorem busXfer_byte {s : State} (tx : Byte) {rx : Byte} (h : s.busAnswer 0 = .byte rx) :
    busXfer tx s = .ok (rx, s.transferred tx rx) := by
  simp [busXfer, h]

theorem busXfer_hang {s : State} (tx : Byte) (h : s.busAnswer 0 = .hang) : busXfer tx s = .error s := by
  simp [busXfer, h]

theorem replyByte_of_busAnswer {s : State} {k : Nat} {rx : Byte} (h : s.busAnswer k = .byte rx) :
    s.replyByte k = rx := by
  simp [State.replyByte, h]

theorem busAnswer_of_ne_hang {s : State} {k : Nat} (h : s.busAnswer k ≠ .hang) :
    s.busAnswer k = .byte (s.replyByte k) := by
  cases hk : s.busAnswer k with
  | byte rx => rw [replyByte_of_busAnswer hk]
  | hang => exact absurd hk h

theorem busAnswers_three {s : State} :
    s.busAnswers 3 = true ↔ s.busAnswer 0 ≠ .hang ∧ s.busAnswer 1 ≠ .hang ∧ s.busAnswer 2 ≠ .hang := by
  simp [State.busAnswers, List.range_succ]

/-! ### The exchange procedure (40_frame_codec.md R110) -/

/-- The five events of one exchange. -/
abbrev exchangeEvents (v : Reg) (r0 r1 r2 : Byte) : List Event :=
  [.pin .csN false, .xfer (encodeFrame v).b0 r0, .xfer (encodeFrame v).b1 r1, .xfer (encodeFrame v).b2 r2,
    .pin .csN true]

/-- The state after a completed exchange. -/
def afterExchange (v : Reg) (s : State) : State :=
  { s with
    status := decodeReply (s.replyByte 0) (s.replyByte 1) (s.replyByte 2)
    csN := true
    bus := s.bus.drop 3
    busTransfers := s.busTransfers + 3
    trace := s.trace ++ exchangeEvents v (s.replyByte 0) (s.replyByte 1) (s.replyByte 2) }

theorem exchange_completes {v : Reg} {s : State} (h : s.busAnswers 3 = true) :
    exchange v s = .next (afterExchange v s) := by
  obtain ⟨h0, h1, h2⟩ := busAnswers_three.1 h
  simp only [exchange]
  rw [busXfer_byte _ (rx := s.replyByte 0) (by simpa using busAnswer_of_ne_hang h0)]
  dsimp only
  rw [busXfer_byte _ (rx := s.replyByte 1) (by simpa using busAnswer_of_ne_hang h1)]
  dsimp only
  rw [busXfer_byte _ (rx := s.replyByte 2) (by simpa using busAnswer_of_ne_hang h2)]
  simp [afterExchange, State.drivePin, State.transferred, ← List.drop_one]

/-- The state a hung exchange leaves (R113): `CS_N` low and `k` of the three transfers made, nothing else. -/
def hungAfter (v : Reg) (s : State) (k : Nat) : State :=
  let f := encodeFrame v
  let s0 := s.drivePin .csN false
  match k with
  | 0 => s0
  | 1 => s0.transferred f.b0 (s.replyByte 0)
  | _ => (s0.transferred f.b0 (s.replyByte 0)).transferred f.b1 (s.replyByte 1)

theorem hungAfter_eq (v : Reg) (s : State) {k : Nat} (hk : k < 3) :
    hungAfter v s k =
      { s with
        csN := false
        bus := s.bus.drop k
        busTransfers := s.busTransfers + k
        trace := s.trace ++ (exchangeEvents v (s.replyByte 0) (s.replyByte 1) (s.replyByte 2)).take (k + 1) } := by
  interval_cases k <;> simp [hungAfter, State.drivePin, State.transferred, ← List.drop_one]

/-- What an exchange can do: complete with one attempt, or hang at the first transfer that never answers. -/
theorem exchange_cases (v : Reg) (s : State) :
    (s.busAnswers 3 = true ∧ exchange v s = .next (afterExchange v s)) ∨
    (s.busAnswers 3 = false ∧ ∃ k < 3, s.busAnswer k = .hang ∧ (∀ j < k, s.busAnswer j ≠ .hang) ∧
      exchange v s = .fault (.busHung (hungAfter v s k))) := by
  cases h : s.busAnswers 3 with
  | true => exact .inl ⟨rfl, exchange_completes h⟩
  | false =>
    refine .inr ⟨rfl, ?_⟩
    by_cases h0 : s.busAnswer 0 = .hang
    · refine ⟨0, by omega, h0, by omega, ?_⟩
      simp only [exchange]
      rw [busXfer_hang _ (by simpa using h0)]
      rfl
    · by_cases h1 : s.busAnswer 1 = .hang
      · refine ⟨1, by omega, h1, by intro j hj; interval_cases j; exact h0, ?_⟩
        simp only [exchange]
        rw [busXfer_byte _ (rx := s.replyByte 0) (by simpa using busAnswer_of_ne_hang h0)]
        dsimp only
        rw [busXfer_hang _ (by simpa using h1)]
        rfl
      · have h2 : s.busAnswer 2 = .hang := by
          by_contra h2
          exact absurd (busAnswers_three.2 ⟨h0, h1, h2⟩) (by simp [h])
        refine ⟨2, by omega, h2, by intro j hj; interval_cases j <;> assumption, ?_⟩
        simp only [exchange]
        rw [busXfer_byte _ (rx := s.replyByte 0) (by simpa using busAnswer_of_ne_hang h0)]
        dsimp only
        rw [busXfer_byte _ (rx := s.replyByte 1) (by simpa using busAnswer_of_ne_hang h1)]
        dsimp only
        rw [busXfer_hang _ (by simpa using h2)]
        rfl

theorem exchange_eq_next {v : Reg} {s t : State} (h : exchange v s = .next t) :
    s.busAnswers 3 = true ∧ t = afterExchange v s := by
  rcases exchange_cases v s with ⟨hb, he⟩ | ⟨_, k, _, _, _, he⟩
  · rw [he] at h; cases h; exact ⟨hb, rfl⟩
  · rw [he] at h; cases h

theorem exchange_not_refused (v : Reg) (s : State) (r : Refusal) : exchange v s ≠ .refused r := by
  rcases exchange_cases v s with ⟨_, he⟩ | ⟨_, k, _, _, _, he⟩ <;> rw [he] <;> intro h <;> cases h

/-! ### The speed computation (42_step_scheduler.md R154) -/

theorem microstepCount_of_le {c : BitVec 4} (h : c.toNat ≤ 8) : microstepCount c = some (2 ^ (8 - c.toNat)) := by
  simp [microstepCount, h]

theorem stepDelayFor_of_pos {n r m : Nat} (h : n * r * m ≠ 0) :
    stepDelayFor n r m = some (BitVec.ofNat 32 (60000000 / (n * r * m))) := by
  simp [stepDelayFor, Config.microsPerMinute] at *
  tauto

/-- What the speed computation can do, with a code that has a count: write `stepDelay` and answer OK, or raise
DivideByZero and write nothing. -/
theorem speedCompute_cases {r : Half} {s : State} (hm : s.mres.toNat ≤ 8) :
    (s.cfg.stepsPerRev * r.toNat * 2 ^ (8 - s.mres.toNat) ≠ 0 ∧
      speedCompute r s = respondOk 0#32
        { s with stepDelay := BitVec.ofNat 32 (60000000 / (s.cfg.stepsPerRev * r.toNat * 2 ^ (8 - s.mres.toNat))) }) ∨
    (s.cfg.stepsPerRev * r.toNat * 2 ^ (8 - s.mres.toNat) = 0 ∧ speedCompute r s = raise .divideByZero s) := by
  by_cases hp : s.cfg.stepsPerRev * r.toNat * 2 ^ (8 - s.mres.toNat) = 0
  · refine .inr ⟨hp, ?_⟩
    simp only [speedCompute, microstepCount_of_le hm, stepDelayFor, hp]
    simp
  · refine .inl ⟨hp, ?_⟩
    simp only [speedCompute, microstepCount_of_le hm, stepDelayFor_of_pos hp]

end Sys2Proof.Machine
end

