-- ==== Sys2Proof/Laws/Exec.lean ====
section
/-! SUPPORT. Lemmas the statements about commands share: what a completed exchange leaves for the next one, the frame's
bytes by position, when the block is moving, when a pulse is due, what a step can be. -/

namespace Sys2Proof.Machine

theorem encodeFrame_bytes (v : Reg) :
    (encodeFrame v).b0 = 0#4 ++ v.extractLsb' 16 4 ∧ (encodeFrame v).b1 = v.extractLsb' 8 8 ∧
      (encodeFrame v).b2 = v.extractLsb' 0 8 := by
  refine ⟨?_, ?_, ?_⟩ <;> apply BitVec.eq_of_getLsbD_eq <;> intro i hi <;>
    simp only [encodeFrame, BitVec.getLsbD_setWidth, BitVec.getLsbD_ushiftRight, BitVec.getLsbD_extractLsb',
      BitVec.getLsbD_append, BitVec.getLsbD_and] <;>
    interval_cases i <;> simp

theorem bracket_eq_exchangeEvents (v : Reg) (a b c : Byte) : bracket v a b c = exchangeEvents v a b c := by
  obtain ⟨h0, h1, h2⟩ := encodeFrame_bytes v
  simp [bracket, exchangeEvents, h0, h1, h2]

@[simp] theorem busAnswer_afterExchange (v : Reg) (s : State) (k : Nat) :
    (afterExchange v s).busAnswer k = s.busAnswer (k + 3) := by
  simp only [State.busAnswer, afterExchange, List.getElem?_drop]
  rw [show s.busTransfers + 3 + k = s.busTransfers + (k + 3) by omega, Nat.add_comm 3 k]

@[simp] theorem replyByte_afterExchange (v : Reg) (s : State) (k : Nat) :
    (afterExchange v s).replyByte k = s.replyByte (k + 3) := by
  simp [State.replyByte]

/-- Six answers are three, and three more after an exchange. -/
theorem busAnswers_six (s : State) :
    s.busAnswers 6 = true ↔ s.busAnswers 3 = true ∧ ∀ v, (afterExchange v s).busAnswers 3 = true := by
  simp only [busAnswers_three, busAnswer_afterExchange]
  simp [State.busAnswers, List.range_succ]
  tauto

theorem moving_iff (s : State) : s.moving = true ↔ s.stepsLeft ≠ 0#32 := by
  simp only [State.moving, BitVec.lt_def, decide_eq_true_eq, ne_eq, ← BitVec.toNat_inj, BitVec.toNat_ofNat]
  omega

/-- The readiness test of MOVE over the integers (42_step_scheduler.md R152). -/
theorem pulseDue_iff (s : State) :
    pulseDue s.now s = true ↔
      s.stepsLeft ≠ 0#32 ∧ s.stepDelay.toNat ≤ (s.timeUs.toNat + 2 ^ 32 - s.lastStepTime.toNat) % 2 ^ 32 := by
  simp only [pulseDue, Bool.and_eq_true, moving_iff, decide_eq_true_eq, BitVec.le_def, elapsed, State.now,
    BitVec.toNat_sub]
  rw [show 2 ^ 32 - s.lastStepTime.toNat + s.timeUs.toNat = s.timeUs.toNat + 2 ^ 32 - s.lastStepTime.toNat by
    have := s.lastStepTime.isLt; omega]

/-! ### One inversion lemma per command that has more than one outcome -/

/-- The speed computation answers a next state in two ways only: the delay written and OK, or DivideByZero. -/
theorem speedCompute_eq_next {r : Half} {s t : State} (h : speedCompute r s = .next t) :
    (∃ d, t = ({ s with stepDelay := d } : State).respondWith { code := .ok, data := 0#32 }) ∨
    raise .divideByZero s = .next t := by
  unfold speedCompute at h
  split at h
  case h_1 => cases h
  case h_2 =>
    split at h
    case h_1 => exact .inr h
    case h_2 d _ => cases h; exact .inl ⟨d, rfl⟩

theorem execExchange_eq_next {v : Nat} {s t : State} (h : execExchange v s = .next t) :
    s.busAnswers 3 = true ∧
      t = (afterExchange (BitVec.ofNat 20 v) s).respondWith
        { code := .ok, data := (afterExchange (BitVec.ofNat 20 v) s).status.setWidth 32 } := by
  obtain ⟨a, ha, h⟩ := andThen_eq_next h
  obtain ⟨hb, rfl⟩ := exchange_eq_next ha
  cases h
  exact ⟨hb, rfl⟩

/-- The state SET_CURRENT sends from: both owned fields written (41_current_quantizer.md R132). -/
abbrev currentSet (mA : Nat) (s : State) : State :=
  (s.setVsense (quantize s.cfg.rSense mA).2).setCs (quantize s.cfg.rSense mA).1

theorem execSetCurrent_eq_next {mA : Nat} {s t : State} (h : execSetCurrent mA s = .next t) :
    (s.started = false ∧ t = (currentSet mA s).respondWith { code := .ok, data := 0#32 }) ∨
    (s.started = true ∧ s.busAnswers 6 = true ∧
      t = (afterExchange (currentSet mA s).regs.cur
        (afterExchange (currentSet mA s).regs.drv (currentSet mA s))).respondWith { code := .ok, data := 0#32 }) := by
  unfold execSetCurrent at h
  dsimp only at h
  split at h
  case isTrue hs =>
    obtain ⟨a, ha, h⟩ := andThen_eq_next h
    obtain ⟨b, hb, h⟩ := andThen_eq_next h
    obtain ⟨h3, rfl⟩ := exchange_eq_next ha
    obtain ⟨h6, rfl⟩ := exchange_eq_next hb
    cases h
    refine .inr ⟨hs, ?_, rfl⟩
    have : (currentSet mA s).busAnswers 6 = true := (busAnswers_six _).2 ⟨h3, fun v => by
      simpa [busAnswers_three] using h6⟩
    exact this
  case isFalse hs => cases h; exact .inl ⟨by simpa using hs, rfl⟩

/-- The state SET_MICROSTEPS sends from: the code written (42_step_scheduler.md R157). -/
abbrev microstepsSet (q : Int) (s : State) : State := s.setMres (microstepCode (microstepRound q))

theorem execSetMicrosteps_eq_next {q : Int} {s t : State} (h : execSetMicrosteps q s = .next t) :
    (s.started = false ∧ speedCompute s.rpm (microstepsSet q s) = .next t) ∨
    (s.started = true ∧ s.busAnswers 3 = true ∧
      speedCompute s.rpm (afterExchange (microstepsSet q s).regs.msc (microstepsSet q s)) = .next t) := by
  obtain ⟨a, ha, h⟩ := andThen_eq_next h
  split at ha
  case isTrue hs =>
    obtain ⟨hb, rfl⟩ := exchange_eq_next ha
    exact .inr ⟨hs, hb, h⟩
  case isFalse hs => cases ha; exact .inl ⟨by simpa using hs, h⟩

theorem execSetSpeed_eq_next {r : Nat} {s t : State} (h : execSetSpeed r s = .next t) :
    raise .divideByZero s = .next t ∨
    (∃ d, t = ({ s with rpm := BitVec.ofNat 16 r, stepDelay := d } : State).respondWith { code := .ok, data := 0#32 }) ∨
    raise .divideByZero { s with rpm := BitVec.ofNat 16 r } = .next t := by
  unfold execSetSpeed at h
  dsimp only at h
  split at h
  case isTrue => exact .inl h
  case isFalse =>
    rcases speedCompute_eq_next h with ⟨d, rfl⟩ | h
    · exact .inr (.inl ⟨d, rfl⟩)
    · exact .inr (.inr h)

/-- The state after a pulse (42_step_scheduler.md R152). -/
abbrev pulsed (s : State) : State :=
  { pulsePins s with stepsLeft := s.stepsLeft - 1#32, lastStepTime := s.now, nextStepTime := s.now + s.stepDelay }

theorem execMove_eq_next {s t : State} (h : execMove s = .next t) :
    (pulseDue s.now s = true ∧ t = (pulsed s).respondWith { code := .ok, data := 0#32 }) ∨
    (pulseDue s.now s = false ∧ t = s.respondWith { code := .ok, data := 0#32 }) := by
  unfold execMove at h
  dsimp only at h
  split at h
  case isTrue hd => cases h; exact .inl ⟨hd, rfl⟩
  case isFalse hd => cases h; exact .inr ⟨by simpa using hd, rfl⟩

theorem execStep_eq_next {n : Int} {s t : State} (h : execStep n s = .next t) :
    (s.moving = true ∧ t = s.respondWith { code := .busy, data := 0#32 }) ∨
    (s.moving = false ∧
      t = ({ s with stepsLeft := BitVec.ofNat 32 n.natAbs, direction := stepDirection n s.direction } : State).respondWith
        { code := .ok, data := 0#32 }) := by
  unfold execStep at h
  split at h
  case isTrue hm => rw [raise_busy] at h; cases h; exact .inl ⟨hm, rfl⟩
  case isFalse hm => cases h; exact .inr ⟨by simpa using hm, rfl⟩

theorem raise_divideByZero_eq_next {s t : State} (h : raise .divideByZero s = .next t) :
    t = { s.respondWith { code := .fault, data := 1#32 } with divideByZeroSeen := true } := by
  rw [raise_divideByZero] at h
  cases h
  rfl

theorem execGetMicrosteps_eq_next {s t : State} (h : execGetMicrosteps s = .next t) :
    ∃ d, t = s.respondWith ⟨.ok, d⟩ := by
  unfold execGetMicrosteps at h
  split at h
  case h_1 => cases h
  case h_2 => cases h; exact ⟨_, rfl⟩

theorem execGetCurrent_eq_next {s t : State} (h : execGetCurrent s = .next t) : ∃ d, t = s.respondWith ⟨.ok, d⟩ := by
  unfold execGetCurrent at h
  split at h
  case isTrue => cases h
  case isFalse => cases h; exact ⟨_, rfl⟩

/-- The commands that can end with nothing but a response: the reads, MOVE with no pulse due, STEP while Moving. -/
def respondsOnly (i : Instr) : Prop :=
  i = .rdStatus ∨ i = .getCurrent ∨ i = .isCurrentScalingHalfed ∨ i = .getResistor ∨ i = .isMoving ∨
    i = .getStepsLeft ∨ i = .getMicrosteps ∨ i = .move ∨ ∃ n, i = .step n

/-- The states SET_MICROSTEPS computes the speed in: the code written, and the register sent when started. -/
def microstepsSent (q : Int) (s s' : State) : Prop :=
  (s.started = false ∧ s' = microstepsSet q s) ∨
  (s.started = true ∧ s' = afterExchange (microstepsSet q s).regs.msc (microstepsSet q s))

/-- What a command that answers a next state can do, said once: to prove a relation between the states before and after
every command, prove it of these twelve forms. -/
theorem exec_next_elim {P : Instr → State → State → Prop}
    (responds : ∀ i s r, respondsOnly i → r.code = .ok ∨ r.code = .busy → P i s (s.respondWith r))
    (exchanged : ∀ v s d, P (.exchange v) s ((afterExchange (BitVec.ofNat 20 v) s).respondWith ⟨.ok, d⟩))
    (currentStored : ∀ mA s, s.started = false →
      P (.setCurrent mA) s ((currentSet mA s).respondWith { code := .ok, data := 0#32 }))
    (currentSent : ∀ mA s, s.started = true →
      P (.setCurrent mA) s ((afterExchange (currentSet mA s).regs.cur
        (afterExchange (currentSet mA s).regs.drv (currentSet mA s))).respondWith { code := .ok, data := 0#32 }))
    (stepped : ∀ n s, s.moving = false →
      P (.step n) s
        (({ s with stepsLeft := BitVec.ofNat 32 n.natAbs, direction := stepDirection n s.direction } : State).respondWith
          { code := .ok, data := 0#32 }))
    (moved : ∀ s, pulseDue s.now s = true → P .move s ((pulsed s).respondWith { code := .ok, data := 0#32 }))
    (stopped : ∀ s d, P .stop s (({ s with stepsLeft := 0#32, direction := .forward } : State).respondWith ⟨.ok, d⟩))
    (sped : ∀ r s d, P (.setSpeed r) s
      (({ s with rpm := BitVec.ofNat 16 r, stepDelay := d } : State).respondWith { code := .ok, data := 0#32 }))
    (spedZero : ∀ r s p, p = s.rpm ∨ p = BitVec.ofNat 16 r → P (.setSpeed r) s
      { ({ s with rpm := p } : State).respondWith { code := .fault, data := 1#32 } with divideByZeroSeen := true })
    (microstepped : ∀ q s s', microstepsSent q s s' →
      (∀ d, P (.setMicrosteps q) s (({ s' with stepDelay := d } : State).respondWith { code := .ok, data := 0#32 })) ∧
      P (.setMicrosteps q) s { s'.respondWith { code := .fault, data := 1#32 } with divideByZeroSeen := true })
    (startedUp : ∀ s, P .start s (({ s with started := true } : State).respondWith { code := .ok, data := 0#32 }))
    (unstarted : ∀ s, P .unstart s (({ s with started := false } : State).respondWith { code := .ok, data := 0#32 })) :
    ∀ i s t, exec i s = .next t → P i s t := by
  intro i s t h
  cases i <;> simp only [exec] at h
  case exchange v => obtain ⟨_, rfl⟩ := execExchange_eq_next h; exact exchanged _ _ _
  case rdStatus => cases h; exact responds _ _ _ (by simp [respondsOnly]) (by simp)
  case setCurrent mA =>
    rcases execSetCurrent_eq_next h with ⟨hs, rfl⟩ | ⟨hs, _, rfl⟩
    · exact currentStored _ _ hs
    · exact currentSent _ _ hs
  case getCurrent =>
    obtain ⟨d, rfl⟩ := execGetCurrent_eq_next h
    exact responds _ _ _ (by simp [respondsOnly]) (by simp)
  case isCurrentScalingHalfed => cases h; exact responds _ _ _ (by simp [respondsOnly]) (by simp)
  case getResistor => cases h; exact responds _ _ _ (by simp [respondsOnly]) (by simp)
  case step n =>
    rcases execStep_eq_next h with ⟨_, rfl⟩ | ⟨hm, rfl⟩
    · exact responds _ _ _ (by simp [respondsOnly]) (by simp)
    · exact stepped _ _ hm
  case move =>
    rcases execMove_eq_next h with ⟨hd, rfl⟩ | ⟨_, rfl⟩
    · exact moved _ hd
    · exact responds _ _ _ (by simp [respondsOnly]) (by simp)
  case stop => cases h; exact stopped _ _
  case setSpeed r =>
    rcases execSetSpeed_eq_next h with h | ⟨d, rfl⟩ | h
    · rw [raise_divideByZero_eq_next h]; exact spedZero _ _ _ (.inl rfl)
    · exact sped _ _ _
    · rw [raise_divideByZero_eq_next h]; exact spedZero _ _ _ (.inr rfl)
  case setMicrosteps q =>
    rcases execSetMicrosteps_eq_next h with ⟨hs, h⟩ | ⟨hs, _, h⟩ <;> rcases speedCompute_eq_next h with ⟨d, rfl⟩ | h
    · exact (microstepped _ _ _ (.inl ⟨hs, rfl⟩)).1 _
    · rw [raise_divideByZero_eq_next h]; exact (microstepped _ _ _ (.inl ⟨hs, rfl⟩)).2
    · exact (microstepped _ _ _ (.inr ⟨hs, rfl⟩)).1 _
    · rw [raise_divideByZero_eq_next h]; exact (microstepped _ _ _ (.inr ⟨hs, rfl⟩)).2
  case isMoving => cases h; exact responds _ _ _ (by simp [respondsOnly]) (by simp)
  case getStepsLeft => cases h; exact responds _ _ _ (by simp [respondsOnly]) (by simp)
  case getMicrosteps =>
    obtain ⟨d, rfl⟩ := execGetMicrosteps_eq_next h
    exact responds _ _ _ (by simp [respondsOnly]) (by simp)
  case start => cases h; exact startedUp _
  case unstart => cases h; exact unstarted _

/-- What a pulse changes: the trace, and the two pins back at their idle levels. -/
theorem pulsePins_frame (s : State) :
    pulsePins s = { s with
      trace := (pulsePins s).trace, stepPin := false, dirPin := (pulsePins s).dirPin } ∧
    ((pulsePins s).dirPin = s.dirPin ∨ (pulsePins s).dirPin = false) ∧
    ((pulsePins s).trace = s.trace ++ [.pin .step true, .pin .step false] ∨
      (pulsePins s).trace
        = s.trace ++ [.pin .dir true, .pin .step true, .pin .step false, .pin .dir false]) := by
  unfold pulsePins
  split <;> simp [State.drivePin]

/-- What a step that answers a next state can be: in a legal configuration, an idle step, a command, a host update, a
change of the time input, a reset between commands, a reset during one. -/
theorem step_eq_next {s t : State} (h : step s = .next t) :
    s.cfg.legal = true ∧
    ((s.host = [] ∧ t = s) ∨
     (∃ w rest i, s.host = .command w :: rest ∧ decode w = .ok i ∧ exec i { s with host := rest } = .next t) ∨
     (∃ k mask bits rest, s.host = .update k mask bits :: rest ∧ hostMaskLegal s.cfg k mask = true ∧
        t = { s with host := rest, regs := s.regs.set k (hostMerge (s.regs.get k) mask bits) }) ∨
     (∃ now rest, s.host = .timeReads now :: rest ∧ t = { s with host := rest, timeUs := now }) ∨
     (∃ rest, s.host = .reset :: rest ∧ takeReset { s with host := rest } = .next t) ∨
     (∃ w n rest i, s.host = .resetDuring w n :: rest ∧ decode w = .ok i ∧
        cutByReset n (exec i { s with host := rest }) { s with host := rest } = .next t)) := by
  unfold step at h
  split at h
  case isFalse => cases h
  case isTrue hl =>
    refine ⟨hl, ?_⟩
    split at h
    case h_1 hh => cases h; exact .inl ⟨hh, rfl⟩
    case h_2 w rest hh =>
      unfold runCommand at h
      split at h
      case h_1 i hd => exact .inr (.inl ⟨w, rest, i, hh, hd, h⟩)
      case h_2 => cases h
    case h_3 k mask bits rest hh =>
      unfold hostUpdate at h
      split at h
      case isTrue hm => cases h; exact .inr (.inr (.inl ⟨k, mask, bits, rest, hh, hm, rfl⟩))
      case isFalse => cases h
    case h_4 now rest hh => cases h; exact .inr (.inr (.inr (.inl ⟨now, rest, hh, rfl⟩)))
    case h_5 rest hh => exact .inr (.inr (.inr (.inr (.inl ⟨rest, hh, h⟩))))
    case h_6 w n rest hh =>
      unfold runCommand at h
      split at h
      case h_1 i hd => exact .inr (.inr (.inr (.inr (.inr ⟨w, n, rest, i, hh, hd, h⟩))))
      case h_2 => cases h

end Sys2Proof.Machine
end

