-- ==== Sys2Proof/Laws/PerInstr.lean ====
section
/-! SUPPORT. Per-instruction family `EncodeInRow`: the word of every command, whatever its operand, lies in the command's
own row of the opcode table (30_encoding.md R82). -/

namespace Sys2Proof.Laws.EncodeInRow

open Sys2Proof

/-- Some row of the table carries the command's mnemonic and matches its word. -/
def Statement (i : Instr) : Prop := ∃ r ∈ opcodeTable, r.mnemonic = i.mnemonic ∧ r.matches (encode i) = true

/-- A word `op ++ arg` matches a row `opMask ++ argMask`, `opPattern ++ 0` part by part. -/
theorem matches_append {m : String} {op : BitVec 8} {arg argMask : Word} (h : arg &&& argMask = 0#32) :
    OpcodeRow.matches ⟨m, 0xFF#8 ++ argMask, op ++ 0#32⟩ (op ++ arg) = true := by
  have ho : op &&& 0xFF#8 = op := by
    have := BitVec.and_allOnes (x := op)
    simpa using this
  simp only [OpcodeRow.matches, and_append, h, ho, beq_self_eq_true]

theorem exchange (value : Nat) : Statement (.exchange value) :=
  ⟨⟨"EXCHANGE", 0xFF#8 ++ 0xFFF00000#32, 0x10#8 ++ 0#32⟩, by decide, rfl, matches_append (and_above20 _)⟩

theorem rdStatus : Statement (.rdStatus) :=
  ⟨⟨"RD_STATUS", 0xFF#8 ++ 0xFFFFFFFF#32, 0x11#8 ++ 0#32⟩, by decide, rfl, matches_append (by decide)⟩

theorem setCurrent (mA : Nat) : Statement (.setCurrent mA) :=
  ⟨⟨"SET_CURRENT", 0xFF#8 ++ 0xFFFF0000#32, 0x20#8 ++ 0#32⟩, by decide, rfl, matches_append (and_above16 _)⟩

theorem getCurrent : Statement (.getCurrent) :=
  ⟨⟨"GET_CURRENT", 0xFF#8 ++ 0xFFFFFFFF#32, 0x21#8 ++ 0#32⟩, by decide, rfl, matches_append (by decide)⟩

theorem isCurrentScalingHalfed : Statement (.isCurrentScalingHalfed) :=
  ⟨⟨"IS_CURRENT_SCALING_HALFED", 0xFF#8 ++ 0xFFFFFFFF#32, 0x22#8 ++ 0#32⟩, by decide, rfl, matches_append (by decide)⟩

theorem getResistor : Statement (.getResistor) :=
  ⟨⟨"GET_RESISTOR", 0xFF#8 ++ 0xFFFFFFFF#32, 0x23#8 ++ 0#32⟩, by decide, rfl, matches_append (by decide)⟩

theorem step (count : Int) : Statement (.step count) :=
  ⟨⟨"STEP", 0xFF#8 ++ 0x00000000#32, 0x30#8 ++ 0#32⟩, by decide, rfl, matches_append (by simp)⟩

theorem move : Statement (.move) :=
  ⟨⟨"MOVE", 0xFF#8 ++ 0xFFFFFFFF#32, 0x31#8 ++ 0#32⟩, by decide, rfl, matches_append (by decide)⟩

theorem stop : Statement (.stop) :=
  ⟨⟨"STOP", 0xFF#8 ++ 0xFFFFFFFF#32, 0x32#8 ++ 0#32⟩, by decide, rfl, matches_append (by decide)⟩

theorem setSpeed (rpm : Nat) : Statement (.setSpeed rpm) :=
  ⟨⟨"SET_SPEED", 0xFF#8 ++ 0xFFFF0000#32, 0x33#8 ++ 0#32⟩, by decide, rfl, matches_append (and_above16 _)⟩

theorem setMicrosteps (requested : Int) : Statement (.setMicrosteps requested) :=
  ⟨⟨"SET_MICROSTEPS", 0xFF#8 ++ 0xFFFF0000#32, 0x34#8 ++ 0#32⟩, by decide, rfl, matches_append (and_above16 _)⟩

theorem isMoving : Statement (.isMoving) :=
  ⟨⟨"IS_MOVING", 0xFF#8 ++ 0xFFFFFFFF#32, 0x35#8 ++ 0#32⟩, by decide, rfl, matches_append (by decide)⟩

theorem getStepsLeft : Statement (.getStepsLeft) :=
  ⟨⟨"GET_STEPS_LEFT", 0xFF#8 ++ 0xFFFFFFFF#32, 0x36#8 ++ 0#32⟩, by decide, rfl, matches_append (by decide)⟩

theorem getMicrosteps : Statement (.getMicrosteps) :=
  ⟨⟨"GET_MICROSTEPS", 0xFF#8 ++ 0xFFFFFFFF#32, 0x37#8 ++ 0#32⟩, by decide, rfl, matches_append (by decide)⟩

theorem start : Statement (.start) :=
  ⟨⟨"START", 0xFF#8 ++ 0xFFFFFFFF#32, 0x40#8 ++ 0#32⟩, by decide, rfl, matches_append (by decide)⟩

theorem unstart : Statement (.unstart) :=
  ⟨⟨"UNSTART", 0xFF#8 ++ 0xFFFFFFFF#32, 0x41#8 ++ 0#32⟩, by decide, rfl, matches_append (by decide)⟩

end Sys2Proof.Laws.EncodeInRow
end

