-- ==== Sys2Proof/Laws/Reset.lean ====
section
/-! SUPPORT. What `rst` leaves (70_reset_and_hazards.md R250, R252): between two commands, and in the middle of one. The
output events a command can make, completed or hung, said once. -/

namespace Sys2Proof.Machine

/-! ### The events of a command -/

/-- The events of a command that completes: none, one exchange, two exchanges, one pulse. -/
def completedEvents (ev : List Event) : Prop :=
  ev = [] ∨ (∃ v a b c, ev = bracket v a b c) ∨ (∃ v a b c v' a' b' c', ev = bracket v a b c ++ bracket v' a' b' c') ∨
    ev = [.pin .step true, .pin .step false] ∨
    ev = [.pin .dir true, .pin .step true, .pin .step false, .pin .dir false]

/-- The events of a command that hangs: an exchange cut after `CS_N(0)` and `k` transfers, SET_CURRENT's second one
among them. -/
def hungEvents (ev : List Event) : Prop :=
  ∃ v a b c, ∃ k < 3, ev = (bracket v a b c).take (k + 1) ∨ ∃ v' a' b' c', ev = bracket v' a' b' c' ++ (bracket v a b c).take (k + 1)

theorem afterExchange_trace (v : Reg) (s : State) :
    (afterExchange v s).trace = s.trace ++ bracket v (s.replyByte 0) (s.replyByte 1) (s.replyByte 2) := by
  simp [afterExchange, bracket_eq_exchangeEvents]

theorem hungAfter_trace (v : Reg) (s : State) {k : Nat} (hk : k < 3) :
    (hungAfter v s k).trace
      = s.trace ++ (bracket v (s.replyByte 0) (s.replyByte 1) (s.replyByte 2)).take (k + 1) := by
  rw [hungAfter_eq v s hk, bracket_eq_exchangeEvents]

theorem exec_next_events {i : Instr} {s t : State} (h : exec i s = .next t) :
    ∃ ev, t.trace = s.trace ++ ev ∧ completedEvents ev := by
  refine exec_next_elim (P := fun _ s t => ∃ ev, t.trace = s.trace ++ ev ∧ completedEvents ev)
    (responds := ?responds) (exchanged := ?exchanged) (currentStored := ?currentStored) (currentSent := ?currentSent)
    (stepped := ?stepped) (moved := ?moved) (stopped := ?stopped) (sped := ?sped)
    (spedZero := ?spedZero) (microstepped := ?microstepped) (startedUp := ?startedUp) (unstarted := ?unstarted) i s t h
  case responds => exact fun _ s r _ _ => ⟨[], by simp, .inl rfl⟩
  case exchanged => exact fun v s d => ⟨_, afterExchange_trace _ s, .inr (.inl ⟨_, _, _, _, rfl⟩)⟩
  case currentStored => exact fun mA s _ => ⟨[], by simp, .inl rfl⟩
  case currentSent =>
    exact fun mA s _ => ⟨_, by simp only [State.respondWith_trace, afterExchange_trace, List.append_assoc]; rfl,
      .inr (.inr (.inl ⟨_, _, _, _, _, _, _, _, rfl⟩))⟩
  case stepped => exact fun n s _ => ⟨[], by simp, .inl rfl⟩
  case moved =>
    intro s _
    rcases (pulsePins_frame s).2.2 with h | h
    · exact ⟨_, h, .inr (.inr (.inr (.inl rfl)))⟩
    · exact ⟨_, h, .inr (.inr (.inr (.inr rfl)))⟩
  case stopped => exact fun s d => ⟨[], by simp, .inl rfl⟩
  case sped => exact fun r s d => ⟨[], by simp, .inl rfl⟩
  case spedZero => exact fun r s p _ => ⟨[], by simp, .inl rfl⟩
  case microstepped =>
    rintro q s s' (⟨_, rfl⟩ | ⟨_, rfl⟩)
    · exact ⟨fun d => ⟨[], by simp, .inl rfl⟩, ⟨[], by simp, .inl rfl⟩⟩
    · exact ⟨fun d => ⟨_, afterExchange_trace _ _, .inr (.inl ⟨_, _, _, _, rfl⟩)⟩, ⟨_, afterExchange_trace _ _, .inr (.inl ⟨_, _, _, _, rfl⟩)⟩⟩
  case startedUp => exact fun s => ⟨[], by simp, .inl rfl⟩
  case unstarted => exact fun s => ⟨[], by simp, .inl rfl⟩

/-! ### Hanging -/

theorem andThen_eq_fault {o : Result} {k : State → Result} {f : Fault} (h : andThen o k = .fault f) :
    o = .fault f ∨ ∃ s, o = .next s ∧ k s = .fault f := by
  cases o with
  | next s => exact .inr ⟨s, rfl, h⟩
  | fault g => exact .inl h
  | refused r => cases h

/-- A hung exchange leaves `CS_N` low with the first unanswered transfer pending, and nothing else (R113). -/
theorem exchange_eq_fault {v : Reg} {s : State} {f : Fault} (h : exchange v s = .fault f) :
    ∃ k < 3, s.busAnswer k = .hang ∧ f = .busHung (hungAfter v s k) := by
  rcases exchange_cases v s with ⟨_, he⟩ | ⟨_, k, hk, hb, _, he⟩
  · rw [he] at h; cases h
  · rw [he] at h; cases h; exact ⟨k, hk, hb, rfl⟩

theorem speedCompute_not_fault (r : Half) (s : State) (f : Fault) : speedCompute r s ≠ .fault f := by
  unfold speedCompute
  split
  · simp
  · split <;> simp [raise, respondOk]

/-- The hangs of a command, all of them: in EXCHANGE, in SET_CURRENT's first or second exchange, in SET_MICROSTEPS. -/
theorem exec_eq_fault {i : Instr} {s : State} {f : Fault} (h : exec i s = .fault f) :
    (∃ v, i = .exchange v ∧ ∃ k < 3, s.busAnswer k = .hang ∧ f = .busHung (hungAfter (BitVec.ofNat 20 v) s k)) ∨
    (∃ mA, i = .setCurrent mA ∧ s.started = true ∧ ∃ k < 3, s.busAnswer k = .hang ∧
      f = .busHung (hungAfter (currentSet mA s).regs.drv (currentSet mA s) k)) ∨
    (∃ mA, i = .setCurrent mA ∧ s.started = true ∧ ∃ k < 3, s.busAnswer (k + 3) = .hang ∧ s.busAnswers 3 = true ∧
      f = .busHung (hungAfter (currentSet mA s).regs.cur
        (afterExchange (currentSet mA s).regs.drv (currentSet mA s)) k)) ∨
    (∃ q, i = .setMicrosteps q ∧ s.started = true ∧ ∃ k < 3, s.busAnswer k = .hang ∧
      f = .busHung (hungAfter (microstepsSet q s).regs.msc (microstepsSet q s) k)) := by
  cases i <;> simp only [exec] at h
  case exchange v =>
    rcases andThen_eq_fault h with h | ⟨_, _, h⟩
    · obtain ⟨k, hk, hb, rfl⟩ := exchange_eq_fault h; exact .inl ⟨v, rfl, k, hk, hb, rfl⟩
    · cases h
  case setCurrent mA =>
    unfold execSetCurrent at h
    dsimp only at h
    split at h
    case isTrue hs =>
      rcases andThen_eq_fault h with h | ⟨a, ha, h⟩
      · obtain ⟨k, hk, hb, rfl⟩ := exchange_eq_fault h; exact .inr (.inl ⟨mA, rfl, hs, k, hk, hb, rfl⟩)
      · obtain ⟨h3, rfl⟩ := exchange_eq_next ha
        rcases andThen_eq_fault h with h | ⟨_, _, h⟩
        · obtain ⟨k, hk, hb, rfl⟩ := exchange_eq_fault h
          rw [busAnswer_afterExchange] at hb
          exact .inr (.inr (.inl ⟨mA, rfl, hs, k, hk, hb, h3, rfl⟩))
        · cases h
    case isFalse => cases h
  case setMicrosteps q =>
    rcases andThen_eq_fault h with h | ⟨_, _, h⟩
    · split at h
      case isTrue hs =>
        obtain ⟨k, hk, hb, rfl⟩ := exchange_eq_fault h
        exact .inr (.inr (.inr ⟨q, rfl, hs, k, hk, hb, rfl⟩))
      case isFalse => cases h
    · exact absurd h (speedCompute_not_fault _ _ _)
  case getCurrent => unfold execGetCurrent at h; split at h <;> cases h
  case step n => unfold execStep at h; split at h <;> simp [raise, respondOk] at h
  case move => unfold execMove at h; dsimp only at h; split at h <;> cases h
  case setSpeed r =>
    unfold execSetSpeed at h
    dsimp only at h
    split at h
    · cases h
    · exact absurd h (speedCompute_not_fault _ _ _)
  case getMicrosteps => unfold execGetMicrosteps at h; split at h <;> cases h
  all_goals cases h

theorem exec_fault_events {i : Instr} {s left : State} (h : exec i s = .fault (.busHung left)) :
    ∃ ev, left.trace = s.trace ++ ev ∧ hungEvents ev := by
  rcases exec_eq_fault h with ⟨_, _, k, hk, _, hf⟩ | ⟨_, _, _, k, hk, _, hf⟩ | ⟨w, _, _, k, hk, _, _, hf⟩ |
    ⟨_, _, _, k, hk, _, hf⟩ <;> cases hf
  case inr.inr.inl =>
    have h := hungAfter_trace (currentSet w s).regs.cur (afterExchange (currentSet w s).regs.drv (currentSet w s)) hk
    rw [afterExchange_trace, List.append_assoc] at h
    exact ⟨_, h, _, _, _, _, k, hk, .inr ⟨_, _, _, _, rfl⟩⟩
  all_goals exact ⟨_, hungAfter_trace _ _ hk, _, _, _, _, k, hk, .inl rfl⟩

/-! ### What `rst` leaves -/

@[simp] theorem transfers_nil : transfers [] = 0 := rfl
@[simp] theorem transfers_xfer (tx rx : Byte) (es : List Event) : transfers (.xfer tx rx :: es) = transfers es + 1 := by
  simp [transfers]
@[simp] theorem transfers_pin (p : Pin) (l : Bool) (es : List Event) : transfers (.pin p l :: es) = transfers es := by
  simp [transfers]

/-- After events `es`: the trace longer by them, an answer taken and counted for each transfer, the pins where the
events left them. -/
theorem foldl_emitted (es : List Event) (s : State) :
    es.foldl State.emitted s =
      { s with
        csN := (es.foldl State.emitted s).csN
        stepPin := (es.foldl State.emitted s).stepPin
        dirPin := (es.foldl State.emitted s).dirPin
        bus := s.bus.drop (transfers es)
        busTransfers := s.busTransfers + transfers es
        trace := s.trace ++ es } := by
  induction es generalizing s with
  | nil => simp
  | cons e es ih =>
    rw [List.foldl_cons, ih]
    cases e with
    | pin p l => cases p <;> simp [State.emitted, State.drivePin]
    | xfer tx rx =>
      simp [State.emitted, State.transferred, ← List.drop_one, List.drop_drop]
      omega

/-- The state after `rst`, in a run whose trace the command in progress had made longer by `events`, with `abandoned`
transfers given up. -/
def afterReset (s : State) (events : List Event) (abandoned : Nat) : State :=
  { State.resetOf s.cfg with
    timeUs := s.timeUs
    host := s.host
    bus := s.bus.drop (transfers events + abandoned)
    busTransfers := s.busTransfers + transfers events
    trace := s.trace ++ events ++ (events.foldl State.emitted s).pinReleases
    responses := s.responses
    divideByZeroSeen := s.divideByZeroSeen }

theorem takeReset_eq (s : State) : takeReset s = .next (afterReset s [] 0) := by
  simp [takeReset, afterReset]

theorem takeReset_emitted (s : State) (es : List Event) :
    takeReset (es.foldl State.emitted s) = .next (afterReset s es 0) := by
  simp only [takeReset, afterReset]
  rw [foldl_emitted es s]
  simp [State.pinReleases]

/-- What a reset during a command can leave, all of it. -/
theorem cutByReset_eq_next {n : Nat} {i : Instr} {s t : State} (h : cutByReset n (exec i s) s = .next t) :
    ∃ ev a, (completedEvents ev ∨ hungEvents ev) ∧ t = afterReset s (ev.take n) a := by
  cases ho : exec i s with
  | next u =>
    obtain ⟨ev, he, hc⟩ := exec_next_events ho
    rw [ho] at h
    simp only [cutByReset, he, List.drop_left, takeReset_emitted] at h
    cases h
    exact ⟨ev, 0, .inl hc, rfl⟩
  | fault f =>
    obtain ⟨left⟩ := f
    obtain ⟨ev, he, hc⟩ := exec_fault_events ho
    rw [ho] at h
    simp only [cutByReset, he, List.drop_left] at h
    split at h
    case isTrue =>
      refine ⟨ev, 1, .inr hc, ?_⟩
      simp only [takeReset] at h
      cases h
      rw [foldl_emitted]
      simp [afterReset, State.pinReleases, ← List.drop_one, List.drop_drop]
    case isFalse =>
      rw [takeReset_emitted] at h
      cases h
      exact ⟨ev, 0, .inr hc, rfl⟩
  | refused r => rw [ho] at h; cases h

end Sys2Proof.Machine
end

