-- ==== Sys2Proof/Tests/Slice0.lean ====
section
/-! SUPPORT. Tests. Expected results are from spec/: the words of 30_encoding.md R82, the vectors and programs of
95_test_vectors.md (their ids in the docstrings). -/

namespace Sys2Proof.Tests

open Sys2Proof Sys2Proof.Machine

/-! ### Helpers -/

/-- The parameters of 95_test_vectors.md with a given resistor. -/
def cfgR (r : Nat) : Config := { Config.standard with rSense := r }

/-- Idle, not started, full default layout, `mres` and `rpm` given. -/
def base (mres : BitVec 4) (rpm : Half) : State :=
  State.resetOf { Config.standard with resetMres := mres, resetRpm := rpm }

/-- One step with the word presented. -/
def present (w : CommandWord) (s : State) : Option State :=
  match step { s with host := [.command w] } with
  | .next t => some t
  | _ => none

/-- The response of that step. -/
def answer (w : CommandWord) (s : State) : Option Response := (present w s).bind fun t => t.responses.getLast?

/-- The quantized pair as numbers. -/
def quantizeN (r i : Nat) : Nat × Nat := ((quantize r i).1.toNat, (quantize r i).2.toNat)

/-! ### WellFormed refuses an operand out of range (30_encoding.md R81) -/

theorem test_wf_exchange : (Instr.exchange (2 ^ 20)).wellFormed = false := by decide
theorem test_wf_setCurrent : (Instr.setCurrent 65536).wellFormed = false := by decide
theorem test_wf_step_high : (Instr.step (2 ^ 31)).wellFormed = false := by decide
theorem test_wf_step_low : (Instr.step (-(2 ^ 31) - 1)).wellFormed = false := by decide
theorem test_wf_setSpeed : (Instr.setSpeed 65536).wellFormed = false := by decide
theorem test_wf_setMicrosteps_high : (Instr.setMicrosteps 32768).wellFormed = false := by decide
theorem test_wf_setMicrosteps_low : (Instr.setMicrosteps (-32769)).wellFormed = false := by decide
theorem test_wf_edges :
    ([.exchange 0xFFFFF, .setCurrent 65535, .step (-(2 ^ 31)), .step (2 ^ 31 - 1), .setSpeed 65535,
      .setMicrosteps (-32768), .setMicrosteps 32767] : List Instr).all Instr.wellFormed = true := by decide

/-! ### Words written out from 30_encoding.md R82 decode to their commands -/

theorem test_decode_exchange : decode 0x10000E0050#40 = .ok (.exchange 0xE0050) := by decide
theorem test_decode_rdStatus : decode 0x1100000000#40 = .ok .rdStatus := by decide
theorem test_decode_setCurrent : decode 0x20000003E8#40 = .ok (.setCurrent 1000) := by decide
theorem test_decode_getCurrent : decode 0x2100000000#40 = .ok .getCurrent := by decide
theorem test_decode_isCurrentScalingHalfed : decode 0x2200000000#40 = .ok .isCurrentScalingHalfed := by decide
theorem test_decode_getResistor : decode 0x2300000000#40 = .ok .getResistor := by decide
theorem test_decode_step_negative : decode 0x30FFFFFFFD#40 = .ok (.step (-3)) := by decide
theorem test_decode_step_most_negative : decode 0x3080000000#40 = .ok (.step (-2147483648)) := by decide
theorem test_decode_move : decode 0x3100000000#40 = .ok .move := by decide
theorem test_decode_stop : decode 0x3200000000#40 = .ok .stop := by decide
theorem test_decode_setSpeed : decode 0x330000003C#40 = .ok (.setSpeed 60) := by decide
theorem test_decode_setMicrosteps : decode 0x34000000C8#40 = .ok (.setMicrosteps 200) := by decide
theorem test_decode_setMicrosteps_negative : decode 0x340000FFFB#40 = .ok (.setMicrosteps (-5)) := by decide
theorem test_decode_isMoving : decode 0x3500000000#40 = .ok .isMoving := by decide
theorem test_decode_getStepsLeft : decode 0x3600000000#40 = .ok .getStepsLeft := by decide
theorem test_decode_getMicrosteps : decode 0x3700000000#40 = .ok .getMicrosteps := by decide
theorem test_decode_start : decode 0x4000000000#40 = .ok .start := by decide
theorem test_decode_unstart : decode 0x4100000000#40 = .ok .unstart := by decide

/-- Table 2.7 and sections 2.1, 2.3, 2.4: illegal words. -/
theorem test_illegal_words :
    ([0x4000000001#40, 0x0000000000#40, 0x1200000000#40, 0x3800000000#40, 0xFF00000000#40, 0x1100000001#40,
      0x3400010000#40, 0x1000100000#40, 0x2000010000#40, 0x3300010000#40] : List CommandWord).all
      (fun w => match decode w with | .ok _ => false | .error _ => true) = true := by decide

/-- Table 2.4: `SET_SPEED 0` is a legal word. -/
theorem test_encode_setSpeed_zero : encode (.setSpeed 0) = 0x3300000000#40 := by decide
theorem test_encode_step_minus_three : encode (.step (-3)) = 0x30FFFFFFFD#40 := by decide
theorem test_tableWord_runs_first : decodeTableWord 40 0x3100000000 = some .move := by decide

/-! ### Frame codec (tables 2.1, 2.2) -/

theorem test_encodeFrame_901B4 : encodeFrame 0x901B4#20 = ⟨0x09#8, 0x01#8, 0xB4#8⟩ := by decide
theorem test_encodeFrame_ones : encodeFrame 0xFFFFF#20 = ⟨0x0F#8, 0xFF#8, 0xFF#8⟩ := by decide
theorem test_decodeReply : decodeReply 0xAB#8 0xCD#8 0xEF#8 = 0xABCDE#20 := by decide
theorem test_readout : (readoutValue 0x7D208#20).toNat = 500 ∧ (csReadout 0x7D208#20).toNat = 20 := by decide
theorem test_flags_12345 :
    StatusFlag.all.filter (fun f => statusFlag Config.standard.flagPos f 0x12345#20) = [.stall, .otWarning, .olB] := by
  decide

/-- Rule R111's example: trace, status and response of `EXCHANGE 0xE0050 <- 12 34 5F`. -/
theorem test_exchange :
    (present 0x10000E0050#40 { base 3 60 with bus := [.byte 0x12, .byte 0x34, .byte 0x5F] }).map
      (fun t => (t.status, t.trace, t.responses, t.csN))
    = some (0x12345#20, [.pin .csN false, .xfer 0x0E 0x12, .xfer 0x00 0x34, .xfer 0x50 0x5F, .pin .csN true],
        [⟨.ok, 0x00012345#32⟩], true) := by decide

/-- Rule R113: the second transfer hangs. -/
theorem test_exchange_hangs :
    (match step { base 3 60 with host := [.command 0x10000E0050#40], bus := [.byte 0x12, .hang] } with
      | .fault (.busHung left) => (left.csN, left.trace, left.responses) == (false, [.pin .csN false, .xfer 0x0E 0x12], [])
      | _ => false) = true := by decide

theorem test_rdStatus : answer 0x1100000000#40 { base 3 60 with status := 0x7D208 } = some ⟨.ok, 0x0007D208#32⟩ := by
  decide

/-! ### Current quantizer (table 2.3) -/

theorem test_quantize_Q1 : quantizeN 100 1000 = (18, 1) := by decide
theorem test_quantize_Q2_Q3_Q4 : quantizeN 100 0 = (0, 1) ∧ quantizeN 100 25 = (0, 1) ∧ scaling 165 100 26 = 0 := by decide
theorem test_quantize_switch_Q10_Q11 : quantizeN 100 1598 = (30, 1) ∧ quantizeN 100 1599 = (16, 0) := by decide
theorem test_quantize_clamp_Q17_Q24 : quantizeN 100 65535 = (31, 0) ∧ scaling 310 65535 65535 = 443337 := by decide
theorem test_readback_table :
    readbackMa 100 18 1 = 979 ∧ readbackMa 100 31 0 = 3100 ∧ readbackMa 1 31 0 = 310000 ∧ readbackMa 65535 0 1 = 0 := by
  decide

/-- P3, commands 1 and 5: not started nothing is sent; started, DRV then CUR. -/
def p3 : State :=
  State.resetOf { Config.standard with
    initCurrentMa := 3100, resetMres := 8, resetRpm := 1,
    resetOther := { msc := 0, chop := 0, cool := 0, cur := 0x00500, drv := 0x00010 } }
theorem test_p3_reset : p3.regs = ⟨0x00008, 0x80000, 0xA0000, 0xC051F, 0xE0010⟩ := by decide
theorem test_setCurrent_not_started :
    (present 0x20000007D0#40 p3).map (fun t => (t.regs.cur, t.regs.drv, t.trace, t.responses))
    = some (0xC0514#20, 0xE0010#20, [], [⟨.ok, 0#32⟩]) := by decide
theorem test_setCurrent_started :
    (present 0x20000003E8#40 { p3 with
        started := true, bus := [.byte 0, .byte 0, .byte 0, .byte 0x7D, .byte 0x20, .byte 0x81] }).map
      (fun t => (t.regs.cur, t.regs.drv, t.status, t.trace))
    = some (0xC0512#20, 0xE0050#20, 0x7D208#20,
        [.pin .csN false, .xfer 0x0E 0x00, .xfer 0x00 0x00, .xfer 0x50 0x00, .pin .csN true,
         .pin .csN false, .xfer 0x0C 0x7D, .xfer 0x05 0x20, .xfer 0x12 0x81, .pin .csN true]) := by decide
theorem test_getCurrent : answer 0x2100000000#40 (base 3 60) = some ⟨.ok, 979#32⟩ := by decide
theorem test_isCurrentScalingHalfed :
    answer 0x2200000000#40 (base 3 60) = some ⟨.ok, 1#32⟩ ∧ answer 0x2200000000#40 p3 = some ⟨.ok, 0#32⟩ := by decide
theorem test_getResistor : answer 0x2300000000#40 (State.resetOf (cfgR 150)) = some ⟨.ok, 150#32⟩ := by decide

/-! ### Step scheduler (tables 2.4 to 2.6) -/

theorem test_step_most_negative :
    (present 0x3080000000#40 (base 3 60)).map (fun t => (t.stepsLeft, t.direction)) = some (2147483648#32, .reverse) := by
  decide
theorem test_step_zero_keeps_direction :
    (present 0x3000000000#40 { base 3 60 with direction := .reverse }).map (fun t => (t.stepsLeft, t.direction))
    = some (0#32, .reverse) := by decide
theorem test_step_busy :
    (present 0x30FFFFFFF9#40 { base 3 60 with stepsLeft := 2 }).map (fun t => (t.stepsLeft, t.direction, t.responses))
    = some (2#32, .forward, [⟨.busy, 0#32⟩]) := by decide

/-- Table 2.6: the pulse is due one microsecond later. -/
theorem test_move_not_due :
    (present 0x3100000000#40 { base 3 60 with stepsLeft := 1, stepDelay := 100, lastStepTime := 50, timeUs := 149 }).map
      (fun t => (t.stepsLeft, t.lastStepTime, t.trace)) = some (1#32, 50#32, []) := by decide
theorem test_move_forward_due :
    (present 0x3100000000#40 { base 3 60 with stepsLeft := 1, stepDelay := 100, lastStepTime := 50, timeUs := 150 }).map
      (fun t => (t.stepsLeft, t.lastStepTime, t.nextStepTime, t.trace))
    = some (0#32, 150#32, 250#32, [.pin .step true, .pin .step false]) := by decide
theorem test_move_reverse_zero_delay :
    (present 0x3100000000#40
      { base 3 60 with stepsLeft := 5, direction := .reverse, stepDelay := 0, lastStepTime := 7, timeUs := 7 }).map
      (fun t => (t.stepsLeft, t.trace, t.dirPin))
    = some (4#32, [.pin .dir true, .pin .step true, .pin .step false, .pin .dir false], false) := by decide
theorem test_move_across_wrap :
    (present 0x3100000000#40
      { base 3 60 with stepsLeft := 2, stepDelay := 16, lastStepTime := 0xFFFFFFE8, timeUs := 0xFFFFFFF8 }).map
      (fun t => (t.stepsLeft, t.lastStepTime, t.nextStepTime)) = some (1#32, 0xFFFFFFF8#32, 8#32) := by decide
theorem test_stop :
    (present 0x3200000000#40 { base 3 60 with stepsLeft := 9, direction := .reverse }).map
      (fun t => (t.stepsLeft, t.direction, t.responses)) = some (0#32, .forward, [⟨.ok, 1#32⟩]) := by decide
theorem test_stop_idle : answer 0x3200000000#40 (base 3 60) = some ⟨.ok, 0#32⟩ := by decide

theorem test_stepDelay_table :
    stepDelayFor 200 60 32 = some 156#32 ∧ stepDelayFor 200 1172 256 = some 0#32 ∧ stepDelayFor 1 1 1 = some 60000000#32 ∧
    stepDelayFor 65535 65535 256 = some 0#32 ∧ stepDelayFor 200 0 32 = none := by decide
theorem test_setSpeed :
    (present 0x330000003C#40 (base 3 7)).map (fun t => (t.rpm, t.stepDelay)) = some (60#16, 156#32) := by decide
theorem test_setSpeed_zero :
    (present 0x3300000000#40 { base 3 7 with stepDelay := 999 }).map (fun t => (t.rpm, t.stepDelay, t.responses))
    = some (7#16, 999#32, [⟨.fault, 1#32⟩]) := by decide

/-- sub027 §8 (S6) and table 2.5. -/
theorem test_microstepRound_S6 :
    [1, 3, 5, 31, 200, 300].map microstepRound = [1, 2, 4, 16, 128, 256] := by decide
theorem test_microstepRound_edges :
    [-32768, 0, 2, 7, 255, 256, 32767].map microstepRound = [1, 1, 2, 4, 128, 256, 256] := by decide

/-- P4, commands 1 and 5. -/
theorem test_setMicrosteps_zero_speed :
    (present 0x3400000010#40 { base 3 0 with stepDelay := 12345 }).map (fun t => (t.regs.msc, t.stepDelay, t.responses))
    = some (4#20, 12345#32, [⟨.fault, 1#32⟩]) := by decide
theorem test_setMicrosteps_started :
    (present 0x34000000C8#40 { base 4 30 with started := true, bus := [.byte 0xFF, .byte 0xFF, .byte 0xFF] }).map
      (fun t => (t.regs.msc, t.stepDelay, t.status, t.trace))
    = some (1#20, 78#32, 0xFFFFF#20,
        [.pin .csN false, .xfer 0x00 0xFF, .xfer 0x00 0xFF, .xfer 0x01 0xFF, .pin .csN true]) := by decide
theorem test_isMoving : answer 0x3500000000#40 { base 3 60 with stepsLeft := 3 } = some ⟨.ok, 1#32⟩ := by decide
theorem test_getStepsLeft : answer 0x3600000000#40 { base 3 60 with stepsLeft := 99 } = some ⟨.ok, 99#32⟩ := by decide
theorem test_getMicrosteps :
    answer 0x3700000000#40 (base 3 60) = some ⟨.ok, 32#32⟩ ∧ answer 0x3700000000#40 (base 0 60) = some ⟨.ok, 256#32⟩ := by
  decide

/-! ### Lifecycle and the ports -/

theorem test_start : (present 0x4000000000#40 (base 3 60)).map (·.started) = some true := by decide
theorem test_unstart : (present 0x4100000000#40 { base 3 60 with started := true }).map (·.started) = some false := by
  decide
theorem test_response_word : (Response.word ⟨.fault, 1#32⟩) = 0x300000001#34 := by decide

/-- P5, action 1: `HostUpdate(DRV, 0x00030, 0x00020)`. -/
theorem test_hostUpdate :
    (match step { p3 with host := [.update .drv 0x00030 0x00020], regs := { p3.regs with drv := 0xE0050 } } with
      | .next t => t.regs.drv == 0xE0060#20
      | _ => false) = true := by decide
/-- Rule R191: a mask over `vsense` (bit 6 of DRV) is refused. -/
theorem test_hostUpdate_refused :
    (match step { p3 with host := [.update .drv 0x00040 0] } with
      | .refused r => r == .hostDutyBroken .drv 0x00040#20
      | _ => false) = true := by decide
theorem test_reset_of_standard :
    State.reset.regs = ⟨0x00000, 0x80000, 0xA0000, 0xC0012, 0xE0040⟩ := by decide
/-- R250: `rst` after `STEP(1)` of a reverse pulse; STEP and DIR are released, the count is gone, there is no response. -/
theorem test_reset_during_move :
    (match step { base 3 60 with
        stepsLeft := 2, direction := .reverse, stepDelay := 0, host := [.resetDuring 0x3100000000#40 2] } with
      | .next t => t.trace == [.pin .dir true, .pin .step true, .pin .step false, .pin .dir false]
          && t.stepsLeft == 0#32 && t.responses == []
      | _ => false) = true := by decide
/-- R250, R265: `rst` releases a hung exchange, and the next exchange is answered. -/
theorem test_reset_during_hang :
    (match step { base 3 60 with bus := [.byte 1, .hang, .byte 2], host := [.resetDuring 0x10000E0050#40 9] } with
      | .next t => t.csN && t.bus == [.byte 2]
          && t.trace == [.pin .csN false, .xfer 0x0E 1, .pin .csN true] && t.responses == []
      | _ => false) = true := by decide
theorem test_illegal_configuration :
    (match step (State.resetOf (cfgR 0)) with | .refused r => r == .illegalConfiguration | _ => false) = true := by decide

/-! ### Host clients (44_host_register_clients.md) -/

theorem test_blankBucket : [60, 54, 53, 36, 24, 23].map HostClient.blankBucket = [3, 3, 2, 2, 1, 0] := by decide
/-- sub027 §8 (S9) at the ends of the range. -/
theorem test_stallGuardThreshold :
    [-64, -1, 0, 63].map (fun t => HostClient.stallGuardThreshold (HostClient.stallGuardField t true).1)
      = [-64, -1, 0, 63] := by decide
/-- Clamped silently (R211). -/
theorem test_stallGuard_clamps :
    [100, -100].map (fun t => HostClient.stallGuardThreshold (HostClient.stallGuardField t true).1) = [63, -64] := by
  decide
/-- Clamped to 0..480 (R202, R211); 480 / 32 = 15 exactly. -/
theorem test_coolStep_clamps :
    let c : HostClient.CoolStep := ⟨0, 0, 0, 0, false, 0, false⟩
    HostClient.coolStepConfiguration 1000 (-5) 7 (-1) true c = ⟨0, 0, 3, 0, true, 15, false⟩ := by decide
/-- R203: disable and enable give the remembered lower threshold back. -/
theorem test_coolStep_enable :
    let c : HostClient.CoolStep := ⟨15, 2, 1, 3, false, 15, true⟩
    HostClient.coolStepEnabled true (HostClient.coolStepEnabled false c) = c := by decide
/-- R193: an unchanged value is sent or not, as the host chooses; a changed one is sent either way. -/
theorem test_setter_on_change :
    let s := { base 3 60 with started := true }
    (HostClient.setter true .drv 0x00030 0 s).length = 1 ∧ (HostClient.setter false .drv 0x00030 0 s).length = 2 ∧
    (HostClient.setter true .drv 0x00030 0x00010 s).length = 2 := by decide
/-- sub027 §8 (S10). -/
theorem test_coolStep_restores :
    HostClient.coolStepLower false 9#4 = 0#4 ∧ HostClient.coolStepLower true 9#4 = 9#4 := by decide

end Sys2Proof.Tests
end

