-- ==== Sys2Proof/Tests/Witnesses.lean ====
section
/-! SUPPORT. For every statement with hypotheses, a concrete state and operands that meet all of them together, each
clause at a boundary of its range. -/

namespace Sys2Proof.Tests

open Sys2Proof Sys2Proof.Machine

/-- Started, at 60 rpm and 32 microsteps, the transport scripted to answer six bytes. -/
def started6 : State :=
  { base 3 60 with started := true, bus := [.byte 0, .byte 1, .byte 2, .byte 3, .byte 4, .byte 5] }

/-- Moving, with a pulse due exactly now. -/
def dueNow (d : Direction) : State :=
  { base 3 60 with stepsLeft := 1, direction := d, stepDelay := 10, lastStepTime := 0xFFFFFFFB, timeUs := 5 }

/-! ### Encoding -/

theorem witness_DecodeOfEncodeIsTheInstruction :
    (Instr.exchange 0xFFFFF).wellFormed = true ∧ (Instr.step (-(2 ^ 31))).wellFormed = true ∧
    (Instr.setMicrosteps (-(2 ^ 15))).wellFormed = true ∧ Instr.unstart.wellFormed = true := by decide
theorem witness_EncodeOfDecodeIsTheWord : decode 0x3080000000#40 = .ok (.step (-(2 ^ 31))) := by decide
theorem witness_DecoderAcceptsExactlyTheTable :
    decode 0x10000FFFFF#40 = .ok (.exchange 0xFFFFF) ∧
    (⟨"EXCHANGE", 0xFFFFF00000#40, 0x1000000000#40⟩ : OpcodeRow) ∈ opcodeTable ∧
    0x10000FFFFF#40 &&& 0xFFFFF00000#40 = 0x1000000000#40 := by decide

/-! ### The step and the ports -/

theorem witness_StepRunsTheDecodedCommand :
    let s := { base 3 60 with host := [.command 0x3100000000#40] }
    s.cfg.legal = true ∧ s.host = .command 0x3100000000#40 :: [] ∧ decode 0x3100000000#40 = .ok .move := by decide
theorem witness_IllegalWordIsRefusedByName :
    let s := { base 3 60 with host := [.command 0x4000000001#40] }
    s.cfg.legal = true ∧ s.host = .command 0x4000000001#40 :: [] ∧
    ∀ r ∈ opcodeTable, 0x4000000001#40 &&& r.mask ≠ r.pattern := by decide
/-- Each clause of R7 at its boundary. -/
theorem witness_IllegalConfigurationHasNoStep :
    let c := Config.standard
    ({ c with stepsPerRev := 0 } : Config).stepsPerRev = 0 ∧ ({ c with rSense := 0 } : Config).rSense = 0 ∧
    ({ c with posMres := 17 } : Config).posMres > 16 ∧ ({ c with posCs := 16 } : Config).posCs > 15 ∧
    ({ c with posVsense := 20 } : Config).posVsense > 19 ∧
    ({ c with posMres := 14 } : Config).sigMask.msc &&& (0xF#20 <<< 14) ≠ 0#20 ∧
    ({ c with posCs := 13 } : Config).sigMask.cur &&& (0x1F#20 <<< 13) ≠ 0#20 ∧
    ({ c with posVsense := 17 } : Config).sigMask.drv.getLsbD 17 = true ∧
    ({ c with flagPos := { c.flagPos with olB := 10 } } : Config).flagPos.pos .olB > 9 ∧
    ({ c with flagPos := { c.flagPos with olB := 5 } } : Config).flagPos.pos .olB
      = ({ c with flagPos := { c.flagPos with olB := 5 } } : Config).flagPos.pos .olA := by decide
theorem witness_IdleAndTimePassingChangeNoRegister :
    (base 3 60).cfg.legal = true ∧ (base 3 60).host = [] ∧
    ({ base 3 60 with host := [.timeReads 7] } : State).host = .timeReads 7 :: [] := by decide
/-- A legal mask next to the owned bit, a mask on a signature bit, a mask on the owned bit. -/
theorem witness_HostUpdateReplacesMaskedBits :
    let s := { base 3 60 with host := [.update .drv 0x00020 0x00020] }
    s.cfg.legal = true ∧ s.host = .update .drv 0x00020 0x00020 :: [] ∧
    0x00020#20 &&& s.cfg.sigMask.get .drv = 0#20 ∧ 0x00020#20 &&& s.cfg.ownedMask .drv = 0#20 ∧
    0x20000#20 &&& s.cfg.sigMask.get .drv ≠ 0#20 ∧ 0x00040#20 &&& s.cfg.ownedMask .drv ≠ 0#20 := by decide
theorem witness_ResetStateIsTheTable : ({ Config.standard with resetMres := 8 } : Config).legal = true := by decide
theorem witness_ResetInputRestoresTheResetState :
    ({ dueNow .reverse with host := [.reset] } : State).cfg.legal = true ∧
    ({ dueNow .reverse with host := [.reset] } : State).host = .reset :: [] := by decide

/-- A reverse pulse cut after `STEP(1)`, and an exchange released from a hang in its third transfer. -/
theorem witness_ResetDuringACommandCutsItShort :
    let s := { dueNow .reverse with host := [.resetDuring 0x3100000000#40 2] }
    let u := { started6 with host := [.resetDuring 0x1000000000#40 3], bus := [.byte 0, .byte 0, .hang] }
    (s.cfg.legal = true ∧ s.pinsIdle = true ∧ s.host = .resetDuring 0x3100000000#40 2 :: [] ∧
      decode 0x3100000000#40 = .ok .move ∧ ∃ t, exec .move { s with host := [] } = .next t) ∧
    (u.cfg.legal = true ∧ u.pinsIdle = true ∧ u.host = .resetDuring 0x1000000000#40 3 :: [] ∧
      decode 0x1000000000#40 = .ok (.exchange 0) ∧
      ∃ left, exec (.exchange 0) { u with host := [] } = .fault (.busHung left)) :=
  ⟨⟨by decide, by decide, rfl, by decide, _, rfl⟩, ⟨by decide, by decide, rfl, by decide, _, rfl⟩⟩

/-! ### Frame codec -/

theorem witness_ExchangeSendsTheValueAndReturnsTheReply :
    0xFFFFF < 2 ^ 20 ∧ started6.busAnswers 3 = true ∧ (base 3 60).busAnswers 3 = true := by decide
theorem witness_ExchangeHangsWithSelectLow :
    started6.busAnswers 3 = true ∧ ({ base 3 60 with bus := [.byte 0, .byte 0, .hang] } : State).busAnswers 3 = false := by
  decide

/-! ### Current quantizer -/

theorem witness_QuantizeIsTheFlooredFormula :
    (64 * 100 * 1598 - 310000 : Int) / 620000 < 16 ∧ 16 ≤ (64 * 100 * 1599 - 310000 : Int) / 620000 := by decide
theorem witness_QuantizeSwitchPoint :
    (quantize 1 159844).2 = 0#1 ∧ (quantize 1 159843).2 = 1#1 ∧ 2 * 500 = 10 * 100 ∧ 1 * 7734 < 7735 ∧
    305157 ≤ 1 * 305157 ∧ 1 * 7735 ≤ 1 * 159843 ∧ (quantize 1 7735).2 = (quantize 1 159843).2 := by decide
theorem witness_SetCurrentWritesAndSendsBothFields :
    65535 < 2 ^ 16 ∧ (base 3 60).started = false ∧ started6.started = true ∧ started6.busAnswers 6 = true ∧
    ({ started6 with bus := [.byte 0, .byte 0, .hang] } : State).busAnswers 3 = false ∧
    ({ started6 with bus := [.byte 0, .byte 0, .byte 0, .hang] } : State).busAnswers 3 = true ∧
    ({ started6 with bus := [.byte 0, .byte 0, .byte 0, .hang] } : State).busAnswers 6 = false := by decide
theorem witness_GetCurrentReadsTheStoredFieldsBack :
    1 ≤ (State.resetOf (cfgR 1)).cfg.rSense ∧ (base 3 60).vsense = 1#1 ∧ p3.vsense = 0#1 := by decide
/-- The last low-reference target and the first high-reference one (Q10, Q11). -/
theorem witness_ReadbackWithinHalfAStep :
    (base 3 60).cfg.legal = true ∧ 1599 < 2 ^ 16 ∧
    (∃ t u, exec (.setCurrent 1598) (base 3 60) = .next t ∧ exec .getCurrent t = .next u ∧ t.vsense = 1#1) ∧
    (∃ t u, exec (.setCurrent 1599) (base 3 60) = .next t ∧ exec .getCurrent t = .next u ∧ t.vsense = 0#1) ∧
    0 ≤ scaling 165 100 1598 ∧ scaling 165 100 1598 ≤ 31 ∧ 0 ≤ scaling 310 100 1599 ∧ scaling 310 100 1599 ≤ 31 :=
  ⟨by decide, by decide, ⟨_, _, rfl, rfl, by decide⟩, ⟨_, _, rfl, rfl, by decide⟩, by decide, by decide, by decide,
    by decide⟩

/-! ### Step scheduler -/

theorem witness_StepStoresCountAndSignOrAnswersBusy :
    -(2 ^ 31) ≤ (-2147483648 : Int) ∧ (2147483647 : Int) < 2 ^ 31 ∧ (base 3 60).stepsLeft = 0#32 ∧
    (dueNow .forward).stepsLeft ≠ 0#32 := by decide
/-- Idle, one microsecond early, exactly due in both directions. -/
theorem witness_MoveEmitsOnePulseWhenDue :
    (base 3 60).stepsLeft = 0#32 ∧ ¬ (10 ≤ (4 + 2 ^ 32 - 0xFFFFFFFB) % 2 ^ 32) ∧
    (dueNow .forward).stepsLeft ≠ 0#32 ∧
    (dueNow .forward).stepDelay.toNat
      ≤ ((dueNow .forward).timeUs.toNat + 2 ^ 32 - (dueNow .forward).lastStepTime.toNat) % 2 ^ 32 ∧
    (dueNow .forward).direction = .forward ∧ (dueNow .reverse).direction = .reverse := by decide
theorem witness_SetSpeedStoresSpeedAndDelay :
    1 ≤ 1 ∧ 65535 < 2 ^ 16 ∧ 1 ≤ (base 8 60).cfg.stepsPerRev ∧ (base 8 60).mres.toNat ≤ 8 := by decide
theorem witness_MicrostepRoundingTable :
    (1 : Int) ≤ 1 ∧ (256 : Int) ≤ 256 ∧ ((2 : Int) ^ 1 ≤ 2 ∧ (3 : Int) < 2 ^ 2) ∧ ((2 : Int) ^ 7 ≤ 128 ∧ (255 : Int) < 2 ^ 8) := by
  decide
theorem witness_SetMicrostepsStoresSendsAndRecomputes :
    -(2 ^ 15) ≤ (-32768 : Int) ∧ (32767 : Int) < 2 ^ 15 ∧ (base 3 60).cfg.posMres ≤ 16 ∧
    1 ≤ (base 3 60).cfg.stepsPerRev ∧ (base 3 60).rpm ≠ 0#16 ∧ (base 3 60).started = false ∧
    started6.rpm ≠ 0#16 ∧ started6.started = true ∧ started6.busAnswers 3 = true := by decide
/-- With a stored speed, and with none. -/
theorem witness_SetMicrostepsHangsWithTheCodeStored :
    started6.started = true ∧ ({ started6 with bus := [.hang] } : State).busAnswers 3 = false ∧
    ({ started6 with rpm := 0, bus := [.byte 0, .byte 0, .hang] } : State).busAnswers 3 = false := by decide
theorem witness_SetMicrostepsWithZeroSpeedKeepsTheCode :
    (base 3 0).cfg.posMres ≤ 16 ∧ (base 3 0).rpm = 0#16 ∧ (base 3 0).started = false ∧
    ({ started6 with rpm := 0 } : State).started = true ∧ ({ started6 with rpm := 0 } : State).busAnswers 3 = true := by
  decide
theorem witness_SchedulerReads : (base 8 60).mres.toNat ≤ 8 := by decide
theorem witness_CodesWithoutCountAreRefused : 8 < (base 9 60).mres.toNat ∧ 1 ≤ 1 ∧ 1 < 2 ^ 16 := by decide
/-- With a stored speed, and ending in DivideByZero. -/
theorem witness_MicrostepsReadBackRounded :
    (base 3 60).cfg.posMres ≤ 16 ∧ (∃ t, exec (.setMicrosteps 300) (base 3 60) = .next t) ∧
    (∃ t, exec (.setMicrosteps 300) (base 3 0) = .next t) :=
  ⟨by decide, ⟨_, rfl⟩, ⟨_, rfl⟩⟩

/-! ### Frames over all commands -/

theorem witness_CommandsWriteOnlyOwnedBits :
    (∃ t, exec (.setMicrosteps 16) (base 3 60) = .next t) ∧ (∃ t, exec (.setCurrent 2000) (base 3 60) = .next t) ∧
    (∃ t, exec .move (dueNow .reverse) = .next t) ∧ (∀ q, Instr.move ≠ .setMicrosteps q) ∧
    (∀ mA, Instr.move ≠ .setCurrent mA) :=
  ⟨⟨_, rfl⟩, ⟨_, rfl⟩, ⟨_, rfl⟩, by simp, by simp⟩
theorem witness_OnlyTransmittingCommandsTouchTheBus :
    (∃ t, exec .move (dueNow .reverse) = .next t) ∧ (∀ v, Instr.move ≠ .exchange v) ∧
    (∀ mA, Instr.move ≠ .setCurrent mA) ∧ (∀ q, Instr.move ≠ .setMicrosteps q) ∧
    (∃ t, exec (.setCurrent 2000) (base 3 60) = .next t) ∧ (base 3 60).started = false :=
  ⟨⟨_, rfl⟩, by simp, by simp, by simp, ⟨_, rfl⟩, rfl⟩
theorem witness_WritersOfMotionState :
    (∃ t, exec .rdStatus started6 = .next t) ∧ (∃ t, exec (.setMicrosteps 4) (base 3 60) = .next t) ∧
    (∃ t, exec .start (base 3 60) = .next t) :=
  ⟨⟨_, rfl⟩, ⟨_, rfl⟩, ⟨_, rfl⟩⟩
theorem witness_OneResponsePerCompletedCommand : ∃ t, exec (.exchange 0) started6 = .next t := ⟨_, rfl⟩
theorem witness_DivideByZeroMarkFollowsTheFaultResponse :
    (∃ t, step { base 3 60 with host := [.reset], divideByZeroSeen := true } = .next t) ∧
    (∃ t, exec (.setSpeed 0) (base 3 60) = .next t ∧ t.divideByZeroSeen = true) ∧
    (∃ t, exec (.setSpeed 1) (base 3 60) = .next t) ∧ (base 3 60).divideByZeroSeen = false :=
  ⟨⟨_, rfl⟩, ⟨_, rfl, rfl⟩, ⟨_, rfl⟩, rfl⟩
theorem witness_PulsesAndCountBalance :
    (∃ t, exec .move (dueNow .forward) = .next t) ∧ (∃ t, exec (.exchange 0) started6 = .next t) ∧
    (∀ n, Instr.move ≠ .step n) ∧ Instr.move ≠ .stop :=
  ⟨⟨_, rfl⟩, ⟨_, rfl⟩, by simp, by simp⟩

/-! ### Whole-machine properties -/

/-- A state in the middle of a move, started, that meets the invariants. -/
def moving6 : State := { started6 with stepsLeft := 2, stepDelay := 156, host := [.timeReads 156, .command 0x3100000000#40] }

theorem moving6_inv : moving6.Inv := ⟨by decide, by decide, by decide, by decide⟩

theorem witness_EveryCommandCompletesInAGoodState : moving6.Inv ∧ moving6.busAnswers 6 = true := ⟨moving6_inv, by decide⟩
theorem witness_EveryLegalResetMeetsTheInvariants :
    Config.standard.legal = true ∧ ({ Config.standard with resetMres := 8, initCurrentMa := 65535 } : Config).legal = true := by
  decide
theorem witness_EveryStepKeepsTheInvariants : moving6.Inv ∧ ∃ t, step moving6 = .next t := ⟨moving6_inv, _, rfl⟩
theorem witness_EveryStepKeepsTheScalingProduced :
    moving6.Inv ∧ moving6.scalingProduced = true ∧ ∃ t, step moving6 = .next t := ⟨moving6_inv, by decide, _, rfl⟩
/-- A pulse that no reset cuts; an exchange cut after its second transfer, past a trace already cut once. -/
theorem witness_EveryStepKeepsTheTraceWhole :
    let s := { dueNow .reverse with host := [.command 0x3100000000#40], trace := [.pin .step true, .pin .step false] }
    let u := { started6 with host := [.resetDuring 0x1000000000#40 3], trace := [.pin .csN false, .pin .csN true] }
    (s.pinsIdle = true ∧ (∀ w n rest, s.host ≠ .resetDuring w n :: rest) ∧ traceWhole s.trace = true ∧
      ∃ t, step s = .next t) ∧
    (u.pinsIdle = true ∧ traceClosed u.trace = true ∧ ∃ t, step u = .next t) :=
  ⟨⟨by decide, by simp, by decide, _, rfl⟩, ⟨by decide, by decide, _, rfl⟩⟩
theorem witness_NoStepChangesAParameter : ∃ t, step { moving6 with host := [.reset] } = .next t := ⟨_, rfl⟩
/-- Two polls, the first exactly due, the second exactly due after it. -/
theorem witness_PollingEmitsExactlyTheRequestedPulses :
    let s := { base 3 60 with stepsLeft := 2, stepDelay := 156, host := polls [156#32, 312#32] ++ [HostAction.command 0x3200000000#40] }
    s.cfg.legal = true ∧ s.host = polls [156#32, 312#32] ++ [HostAction.command 0x3200000000#40] ∧
    sufficientCadence s.stepDelay s.lastStepTime [156#32, 312#32] = true := by decide
theorem witness_StatusIsReadForNoDecision : Instr.setCurrent 5 ≠ .rdStatus ∧ ∃ t, exec (.setCurrent 5) started6 = .next t :=
  ⟨by simp, _, rfl⟩
theorem witness_NextStepTimeIsUnobservable : ∃ t, exec .move (dueNow .forward) = .next t := ⟨_, rfl⟩
/-- A host bit set in each of the three registers that hold an owned field. -/
theorem witness_HostBitsAreReadForNoDecision :
    let r : RegSet := { started6.regs with msc := 0x00103, cur := 0xC0512, drv := 0xE0050 }
    started6.cfg.legal = true ∧ getField 4 started6.cfg.posMres r.msc = started6.mres ∧
    getField 5 started6.cfg.posCs r.cur = started6.cs ∧ getField 1 started6.cfg.posVsense r.drv = started6.vsense ∧
    ∃ t, exec (.setMicrosteps 300) started6 = .next t :=
  ⟨by decide, by decide, by decide, by decide, _, rfl⟩

/-- Every command's word with a zero operand, presented first after reset, runs. -/
theorem test_every_row_runs_first_after_reset :
    (opcodeTable.all fun r =>
      match step (State.reset.withFetchWord 40 r.pattern.toNat) with
      | .next _ => true
      | _ => false) = true := by decide

end Sys2Proof.Tests
end

/-! ### Proofs for 00_scope.md: legal configurations, the step at the ports, the parameters -/

namespace Sys2Proof

/-! ### What a legal configuration gives (00_scope.md R6, R7) -/

theorem RegName.mem_all (k : RegName) : k ∈ RegName.all := by cases k <;> decide

theorem StatusFlag.mem_all (f : StatusFlag) : f ∈ StatusFlag.all := by cases f <;> decide

section
variable {c : Config}

theorem Config.legal_iff :
    c.legal = true ↔ c.rangesLegal = true ∧ c.layoutLegal = true ∧ c.flagsLegal = true := by
  simp only [Config.legal, Bool.and_eq_true, and_assoc]

theorem Config.legal_divisors_pos (h : c.legal = true) : 1 ≤ c.stepsPerRev ∧ 1 ≤ c.rSense := by
  obtain ⟨hr, -, -⟩ := Config.legal_iff.1 h
  simp only [Config.rangesLegal, Bool.and_eq_true, decide_eq_true_eq] at hr
  omega

theorem Config.legal_positions (h : c.legal = true) : c.posMres ≤ 16 ∧ c.posCs ≤ 15 ∧ c.posVsense ≤ 19 := by
  obtain ⟨-, hl, -⟩ := Config.legal_iff.1 h
  simp only [Config.layoutLegal, Bool.and_eq_true, decide_eq_true_eq] at hl
  omega

theorem Config.legal_sigMask_ownedMask (h : c.legal = true) (k : RegName) :
    c.sigMask.get k &&& c.ownedMask k = 0#20 := by
  obtain ⟨-, hl, -⟩ := Config.legal_iff.1 h
  simp only [Config.layoutLegal, Bool.and_eq_true, List.all_eq_true, beq_iff_eq] at hl
  exact (hl.2 k k.mem_all).1

theorem Config.legal_flagPos_le (h : c.legal = true) (f : StatusFlag) : c.flagPos.pos f ≤ 9 := by
  obtain ⟨-, -, hf⟩ := Config.legal_iff.1 h
  simp only [Config.flagsLegal, Bool.and_eq_true, List.all_map, List.all_eq_true] at hf
  simpa using hf.1 f f.mem_all

theorem Config.legal_flagPos_injective (h : c.legal = true) : Function.Injective c.flagPos.pos := by
  obtain ⟨-, -, hf⟩ := Config.legal_iff.1 h
  simp only [Config.flagsLegal, Bool.and_eq_true, decide_eq_true_eq] at hf
  exact fun f g hfg => List.inj_on_of_nodup_map hf.2 f.mem_all g.mem_all hfg

/-- The bit of `vsense` is no signature bit: the mask of a one-bit field, read at its only position. -/
theorem Config.legal_sigMask_vsense (h : c.legal = true) : c.sigMask.drv.getLsbD c.posVsense = false := by
  obtain ⟨-, -, hp⟩ := Config.legal_positions h
  have hmask : c.sigMask.drv &&& fieldMask c.posVsense 1 = 0#20 := Config.legal_sigMask_ownedMask h .drv
  have hin : (fieldMask c.posVsense 1).getLsbD c.posVsense = true := by
    rw [fieldMask_getLsbD]
    exact decide_eq_true (by omega)
  have hbit := congrArg (BitVec.getLsbD · c.posVsense) hmask
  rwa [BitVec.getLsbD_and, hin, Bool.and_true, BitVec.getLsbD_zero] at hbit

end
end Sys2Proof

namespace Sys2Proof.Machine

/-! ### One equation of `step` per form of the host's next action (00_scope.md R5) -/

theorem step_of_not_legal {s : State} (h : s.cfg.legal ≠ true) : step s = .refused .illegalConfiguration := if_neg h

section
variable {s : State} {rest : List HostAction} (hl : s.cfg.legal = true)
include hl

theorem step_of_nil (hh : s.host = []) : step s = .next s := by simp [step, hl, hh, idle]

theorem step_of_command {w : CommandWord} (hh : s.host = .command w :: rest) :
    step s = runCommand w { s with host := rest } := by simp [step, hl, hh]

theorem step_of_timeReads {now : Word} (hh : s.host = .timeReads now :: rest) :
    step s = .next { s with host := rest, timeUs := now } := by simp [step, hl, hh, timePasses]

end

theorem runCommand_of_decode {w : CommandWord} {i : Instr} (h : decode w = .ok i) (s : State) :
    runCommand w s = exec i s := by simp [runCommand, h]

/-! ### The parameters (00_scope.md R6) -/

@[simp] theorem afterReset_cfg (s : State) (es : List Event) (n : Nat) : (afterReset s es n).cfg = s.cfg := rfl

@[simp] theorem pulsePins_cfg (s : State) : (pulsePins s).cfg = s.cfg := by rw [(pulsePins_frame s).1]

theorem microstepsSent_cfg {q : Int} {s s' : State} (h : microstepsSent q s s') : s'.cfg = s.cfg := by
  rcases h with ⟨-, rfl⟩ | ⟨-, rfl⟩ <;> rfl

/-- A command that answers a next state changes no parameter: each form of `exec_next_elim` writes other fields. -/
theorem exec_next_cfg {i : Instr} {s t : State} (h : exec i s = .next t) : t.cfg = s.cfg := by
  refine exec_next_elim (P := fun _ s t => t.cfg = s.cfg)
    (moved := ?moved) (microstepped := ?microstepped) ?_ ?_ ?_ ?_ ?_ ?_ ?_ ?_ ?_ ?_ i s t h
  case moved => exact fun s _ => pulsePins_cfg s
  case microstepped =>
    intro q s s' hs
    have hcfg := microstepsSent_cfg hs
    exact ⟨fun _ => hcfg, hcfg⟩
  all_goals intros; rfl

/-- Settles O50: a step is idle, a command, an update, a change of the time input or a reset, and each keeps `cfg`. -/
theorem noStepChangesAParameter : Obligations.NoStepChangesAParameter := by
  intro s t h
  rcases (step_eq_next h).2 with ⟨-, rfl⟩ | ⟨w, rest, i, -, -, hx⟩ | ⟨k, mask, bits, rest, -, -, rfl⟩ |
    ⟨now, rest, -, rfl⟩ | ⟨rest, -, hr⟩ | ⟨w, n, rest, i, -, -, hc⟩
  · rfl
  · exact (exec_next_cfg hx :)
  · rfl
  · rfl
  · rw [takeReset_eq] at hr; cases hr; exact afterReset_cfg _ _ _
  · obtain ⟨ev, a, -, rfl⟩ := cutByReset_eq_next hc; exact afterReset_cfg _ _ _

/-- Settles O7, from the equation of `step` on a presented word. -/
theorem stepRunsTheDecodedCommand : Obligations.StepRunsTheDecodedCommand := by
  intro s w rest i hl hh hd
  rw [step_of_command hl hh, runCommand_of_decode hd]

/-- Settles O9: each clause contradicts what a legal configuration gives. -/
theorem illegalConfigurationHasNoStep : Obligations.IllegalConfigurationHasNoStep := by
  intro s hbad
  refine step_of_not_legal fun hl => ?_
  obtain ⟨hspr, hrs⟩ := Config.legal_divisors_pos hl
  obtain ⟨hmres, hcs, hvs⟩ := Config.legal_positions hl
  have hmask := Config.legal_sigMask_ownedMask hl
  rcases hbad with h | h | h | h | h | h | h | h | ⟨f, h⟩ | ⟨f, g, hne, h⟩
  · omega
  · omega
  · omega
  · omega
  · omega
  · exact h (hmask .msc)
  · exact h (hmask .cur)
  · simp [Config.legal_sigMask_vsense hl] at h
  · exact absurd (Config.legal_flagPos_le hl f) (by omega)
  · exact hne (Config.legal_flagPos_injective hl h)

/-- Settles O10, from the equations of `step` with nothing presented and with time passing. -/
theorem idleAndTimePassingChangeNoRegister : Obligations.IdleAndTimePassingChangeNoRegister :=
  fun _ hl => ⟨step_of_nil hl, fun _ _ hh => step_of_timeReads hl hh⟩

end Sys2Proof.Machine

/-! ### Proofs for 10_state.md: the reset state, who writes what, the invariants, what no command decides by -/

namespace Sys2Proof

/-! ### Registers seen under a mask clear of the owned bits (10_state.md R22, R23) -/

section
variable {r r' m n : Reg}

/-- Registers that agree outside `m` agree under every mask clear of `m`. -/
theorem and_eq_and_of_eq_outside (h : r &&& ~~~m = r' &&& ~~~m) (hn : n &&& m = 0#20) : r &&& n = r' &&& n := by
  have hsub : ~~~m &&& n = n := by
    calc ~~~m &&& n = (n &&& m) ||| (n &&& ~~~m) := by rw [hn, BitVec.zero_or, BitVec.and_comm]
      _ = n := by rw [← BitVec.and_or_distrib_left, BitVec.or_not_self, BitVec.and_allOnes]
  calc r &&& n = r &&& ~~~m &&& n := by rw [BitVec.and_assoc, hsub]
    _ = r' &&& n := by rw [h, BitVec.and_assoc, hsub]

/-- Registers that agree outside `m` agree outside every larger mask. -/
theorem and_not_or_eq_of_eq_outside (h : r &&& ~~~m = r' &&& ~~~m) :
    r &&& ~~~(n ||| m) = r' &&& ~~~(n ||| m) := by
  rw [BitVec.not_or, BitVec.and_comm (~~~n), ← BitVec.and_assoc, h, BitVec.and_assoc]

end

/-! ### The register set at reset (10_state.md R40) -/

section
variable {c : Config}

theorem Config.legal_sig_under_mask (h : c.legal = true) (k : RegName) :
    c.sig.get k &&& c.sigMask.get k = c.sig.get k := by
  obtain ⟨-, hl, -⟩ := Config.legal_iff.1 h
  simp only [Config.layoutLegal, Bool.and_eq_true, List.all_eq_true, beq_iff_eq] at hl
  exact (hl.2 k k.mem_all).2

theorem Config.legal_resetMres_le (h : c.legal = true) : c.resetMres.toNat ≤ 8 := by
  obtain ⟨hr, -, -⟩ := Config.legal_iff.1 h
  simp only [Config.rangesLegal, Bool.and_eq_true, decide_eq_true_eq] at hr
  exact hr.2

/-- Reset writes the owned fields over `resetBase` and nothing else. -/
theorem resetRegs_outside (c : Config) (k : RegName) :
    (resetRegs c).get k &&& ~~~(c.ownedMask k) = resetBase c k &&& ~~~(c.ownedMask k) := by
  cases k
  case msc => exact setField_outside _ _ _
  case chop => rfl
  case cool => rfl
  case cur => exact setField_outside _ _ _
  case drv => exact setField_outside _ _ _

theorem resetBase_under_sigMask (h : c.legal = true) (k : RegName) :
    resetBase c k &&& c.sigMask.get k = c.sig.get k := by
  calc resetBase c k &&& c.sigMask.get k
      = c.sig.get k &&& c.sigMask.get k ||| c.resetOther.get k &&& (c.sigMask.get k &&& ~~~(c.sigMask.get k)) := by
        apply BitVec.eq_of_getLsbD_eq
        intro i _
        simp only [resetBase, BitVec.getLsbD_and, BitVec.getLsbD_or]
        grind
    _ = c.sig.get k := by simp [Config.legal_sig_under_mask h k]

theorem resetBase_outside_sigMask (c : Config) (k : RegName) :
    resetBase c k &&& ~~~(c.sigMask.get k) = c.resetOther.get k &&& ~~~(c.sigMask.get k) := by
  apply BitVec.eq_of_getLsbD_eq
  intro i _
  simp only [resetBase, BitVec.getLsbD_and, BitVec.getLsbD_or, BitVec.getLsbD_not]
  grind

/-! ### The pairs the quantizer produces (41_current_quantizer.md R137) -/

theorem clampScaling_ge {x : Int} (h : 16 ≤ x) : 16 ≤ (clampScaling x).toNat := by
  unfold clampScaling
  split
  case isTrue => omega
  case isFalse =>
    split
    case isTrue => decide
    case isFalse => rw [BitVec.toNat_ofInt]; omega

/-- The high reference comes with a scaling of 16 or more. -/
theorem quantize_low_or_ge (r i : Nat) : (quantize r i).2 = 1#1 ∨ 16 ≤ (quantize r i).1.toNat := by
  unfold quantize
  dsimp only
  split
  case isTrue => exact .inl rfl
  case isFalse hs => exact .inr (clampScaling_ge (by omega))

end
end Sys2Proof

namespace Sys2Proof.Machine

/-! ### The state after reset -/

section
variable {c : Config} (h : c.legal = true)
include h

theorem resetOf_signature (k : RegName) : (State.resetOf c).regs.get k &&& c.sigMask.get k = c.sig.get k := by
  rw [← resetBase_under_sigMask h k]
  exact and_eq_and_of_eq_outside (resetRegs_outside c k) (Config.legal_sigMask_ownedMask h k)

theorem resetOf_mres : (State.resetOf c).mres = c.resetMres :=
  getField_setField _ _ (Nat.add_le_add_right (Config.legal_positions h).1 4)

theorem resetOf_currentPair :
    ((State.resetOf c).cs, (State.resetOf c).vsense) = quantize c.rSense c.initCurrentMa := by
  obtain ⟨-, hcs, hvs⟩ := Config.legal_positions h
  exact Prod.ext (getField_setField _ _ (by omega)) (getField_setField _ _ (by omega))

end

/-- Settles O12: signature, owned fields and host bits of `resetRegs`; the rest of `resetOf` is the table as it stands. -/
theorem resetStateIsTheTable : Obligations.ResetStateIsTheTable := by
  intro c h
  refine ⟨resetOf_signature h, resetOf_mres h, Config.legal_resetMres_le h, resetOf_currentPair h, fun k => ?_,
    rfl, rfl, rfl, rfl, rfl, rfl, rfl, rfl, rfl, rfl, rfl⟩
  have hbase := and_not_or_eq_of_eq_outside (n := c.ownedMask k) (resetBase_outside_sigMask c k)
  rw [BitVec.or_comm] at hbase
  exact (and_not_or_eq_of_eq_outside (resetRegs_outside c k)).trans hbase

theorem signaturesHold_iff {s : State} :
    s.signaturesHold = true ↔ ∀ k, s.regs.get k &&& s.cfg.sigMask.get k = s.cfg.sig.get k := by
  simp only [State.signaturesHold, List.all_eq_true, beq_iff_eq]
  exact ⟨fun h k => h k k.mem_all, fun h k _ => h k⟩

theorem resetOf_inv {c : Config} (h : c.legal = true) : (State.resetOf c).Inv where
  legalConfig := h
  signatures := signaturesHold_iff.2 (resetOf_signature h)
  microstepCode := by rw [resetOf_mres h]; exact Config.legal_resetMres_le h
  pinsIdle := rfl

theorem scalingProduced_iff {s : State} : s.scalingProduced = true ↔ s.vsense = 1#1 ∨ 16 ≤ s.cs.toNat := by
  simp only [State.scalingProduced, Bool.or_eq_true, beq_iff_eq, decide_eq_true_eq]

/-- Settles O46: the invariants from the reset table, the scaling from the quantizer's pairs. -/
theorem everyLegalResetMeetsTheInvariants : Obligations.EveryLegalResetMeetsTheInvariants := by
  intro c h
  obtain ⟨hcs, hvs⟩ := Prod.mk.inj (resetOf_currentPair h)
  refine ⟨resetOf_inv h, scalingProduced_iff.2 ?_⟩
  rw [hcs, hvs]
  exact quantize_low_or_ge _ _

/-- Settles O45: the standard configuration is a legal one. -/
theorem resetMeetsTheInvariants : Obligations.ResetMeetsTheInvariants :=
  everyLegalResetMeetsTheInvariants Config.standard (by decide)

/-! ### A pulse, field by field (42_step_scheduler.md R152) -/

/-- The events of one pulse: DIR around it when reverse. -/
def pulseEvents : Direction → List Event
  | .forward => [.pin .step true, .pin .step false]
  | .reverse => [.pin .dir true, .pin .step true, .pin .step false, .pin .dir false]

theorem pulsePins_eq (s : State) :
    pulsePins s = { s with
      trace := s.trace ++ pulseEvents s.direction
      stepPin := false
      dirPin := s.direction == .forward && s.dirPin } := by
  unfold pulsePins
  split <;> simp [State.drivePin, pulseEvents, *]

/-! ### Which commands write which piece of state -/

@[simp] theorem pulsePins_regs (s : State) : (pulsePins s).regs = s.regs := by rw [pulsePins_eq]

/-- What a command may do to the register set (10_state.md R23, R24). -/
def writesOwnedOnly (i : Instr) (s t : State) : Prop :=
  (∀ k, t.regs.get k &&& ~~~(s.cfg.ownedMask k) = s.regs.get k &&& ~~~(s.cfg.ownedMask k)) ∧
  t.regs.chop = s.regs.chop ∧ t.regs.cool = s.regs.cool ∧
  ((∀ q, i ≠ .setMicrosteps q) → t.regs.msc = s.regs.msc) ∧
  ((∀ mA, i ≠ .setCurrent mA) → t.regs.cur = s.regs.cur ∧ t.regs.drv = s.regs.drv)

theorem writesOwnedOnly_of_regs_eq {i : Instr} {s t : State} (h : t.regs = s.regs) : writesOwnedOnly i s t := by
  simp [writesOwnedOnly, h]

/-- SET_CURRENT writes `cs` and `vsense`. -/
theorem writesOwnedOnly_setCurrent {mA : Nat} {s t : State} (h : t.regs = (currentSet mA s).regs) :
    writesOwnedOnly (.setCurrent mA) s t := by
  refine ⟨fun k => ?_, by rw [h]; rfl, by rw [h]; rfl, fun _ => by rw [h]; rfl, fun hne => absurd rfl (hne mA)⟩
  rw [h]
  cases k
  case cur => exact setField_outside _ _ _
  case drv => exact setField_outside _ _ _
  all_goals rfl

/-- SET_MICROSTEPS writes `mres`. -/
theorem writesOwnedOnly_setMicrosteps {q : Int} {s t : State} (h : t.regs = (microstepsSet q s).regs) :
    writesOwnedOnly (.setMicrosteps q) s t := by
  refine ⟨fun k => ?_, by rw [h]; rfl, by rw [h]; rfl, fun hne => absurd rfl (hne q),
    fun _ => by rw [h]; exact ⟨rfl, rfl⟩⟩
  rw [h]
  cases k
  case msc => exact setField_outside _ _ _
  all_goals rfl

theorem microstepsSent_regs {q : Int} {s s' : State} (h : microstepsSent q s s') :
    s'.regs = (microstepsSet q s).regs := by
  rcases h with ⟨-, rfl⟩ | ⟨-, rfl⟩ <;> rfl

theorem exec_next_writesOwnedOnly {i : Instr} {s t : State} (h : exec i s = .next t) : writesOwnedOnly i s t := by
  refine exec_next_elim (P := writesOwnedOnly) (currentStored := ?currentStored) (currentSent := ?currentSent)
    (moved := ?moved) (microstepped := ?microstepped) ?_ ?_ ?_ ?_ ?_ ?_ ?_ ?_ i s t h
  case currentStored => exact fun mA s _ => writesOwnedOnly_setCurrent rfl
  case currentSent => exact fun mA s _ => writesOwnedOnly_setCurrent rfl
  case moved => exact fun s _ => writesOwnedOnly_of_regs_eq (pulsePins_regs s)
  case microstepped =>
    intro q s s' hs
    have hregs := microstepsSent_regs hs
    exact ⟨fun _ => writesOwnedOnly_setMicrosteps hregs, writesOwnedOnly_setMicrosteps hregs⟩
  all_goals intros; exact writesOwnedOnly_of_regs_eq rfl

/-- Settles O38: every form of `exec_next_elim` but the two setters' leaves the register set alone. -/
theorem commandsWriteOnlyOwnedBits : Obligations.CommandsWriteOnlyOwnedBits :=
  fun _ _ _ h => exec_next_writesOwnedOnly h

/-! ### The bus -/

@[simp] theorem exchanges_append (a b : List Event) : exchanges (a ++ b) = exchanges a + exchanges b :=
  List.countP_append

theorem exchanges_pulseEvents (d : Direction) : exchanges (pulseEvents d) = 0 := by cases d <;> rfl

/-- The bus side of the state: cached status, chip select, transport, exchanges made. -/
def sameBus (s t : State) : Prop :=
  t.status = s.status ∧ t.csN = s.csN ∧ t.bus = s.bus ∧ t.busTransfers = s.busTransfers ∧
    exchanges t.trace = exchanges s.trace

theorem sameBus_pulsed (s : State) : sameBus s (pulsed s) := by
  rw [pulsed, pulsePins_eq]
  exact ⟨rfl, rfl, rfl, rfl, by simp only [exchanges_append, exchanges_pulseEvents, Nat.add_zero]⟩

/-- Settles O39: a command that exchanges is EXCHANGE, or one of the two setters while started. -/
theorem onlyTransmittingCommandsTouchTheBus : Obligations.OnlyTransmittingCommandsTouchTheBus := by
  unfold Obligations.OnlyTransmittingCommandsTouchTheBus
  apply exec_next_elim
  case exchanged => exact fun v s d hv => absurd rfl (hv v)
  case currentSent => exact fun mA s hs _ hg => absurd rfl ((hg hs).1 mA)
  case moved => exact fun s _ _ _ => sameBus_pulsed s
  case microstepped =>
    rintro q s s' (⟨-, rfl⟩ | ⟨hs, -⟩)
    · exact ⟨fun _ _ _ => ⟨rfl, rfl, rfl, rfl, rfl⟩, fun _ _ => ⟨rfl, rfl, rfl, rfl, rfl⟩⟩
    · exact ⟨fun _ _ hg => absurd rfl ((hg hs).2 q), fun _ hg => absurd rfl ((hg hs).2 q)⟩
  all_goals intros; exact ⟨rfl, rfl, rfl, rfl, rfl⟩

/-- Settles O40: each form of `exec_next_elim` writes the fields the statement allows it. -/
theorem writersOfMotionState : Obligations.WritersOfMotionState := by
  unfold Obligations.WritersOfMotionState
  apply exec_next_elim
  case moved =>
    intro s _
    rw [pulsed, pulsePins_eq]
    simp
  case microstepped => rintro q s s' (⟨-, rfl⟩ | ⟨-, rfl⟩) <;> simp [afterExchange]
  all_goals intros; simp [afterExchange]

/-! ### The invariants along every step (10_state.md R41) -/

theorem pinsIdle_iff {s : State} :
    s.pinsIdle = true ↔ s.csN = true ∧ s.stepPin = false ∧ s.dirPin = false := by
  simp only [State.pinsIdle, Bool.and_eq_true, Bool.not_eq_true', and_assoc]

theorem setMres_mres {s : State} (h : s.cfg.legal = true) (c : BitVec 4) : (s.setMres c).mres = c :=
  getField_setField _ _ (Nat.add_le_add_right (Config.legal_positions h).1 4)

theorem setCs_cs {s : State} (h : s.cfg.legal = true) (c : BitVec 5) : (s.setCs c).cs = c :=
  getField_setField _ _ (Nat.add_le_add_right (Config.legal_positions h).2.1 5)

theorem setVsense_vsense {s : State} (h : s.cfg.legal = true) (v : BitVec 1) : (s.setVsense v).vsense = v :=
  getField_setField _ _ (Nat.add_le_add_right (Config.legal_positions h).2.2 1)

theorem microstepCode_le (m : Nat) : (microstepCode m).toNat ≤ 8 := by
  simp only [microstepCode, BitVec.toNat_ofNat]
  omega

/-- The invariants read the configuration, the registers and the pins alone. -/
theorem State.Inv.of_same {s t : State} (h : s.Inv) (hcfg : t.cfg = s.cfg) (hregs : t.regs = s.regs)
    (hpins : t.pinsIdle = true) : t.Inv where
  legalConfig := hcfg ▸ h.legalConfig
  signatures := by simpa only [State.signaturesHold, hcfg, hregs] using h.signatures
  microstepCode := by simpa only [State.mres, hcfg, hregs] using h.microstepCode
  pinsIdle := hpins

/-- A pulse ends with the pins as it found them idle; an exchange ends with `CS_N` high. -/
theorem exec_next_pinsIdle {i : Instr} {s t : State} (h : exec i s = .next t) (hi : s.pinsIdle = true) :
    t.pinsIdle = true := by
  refine exec_next_elim (P := fun _ s t => s.pinsIdle = true → t.pinsIdle = true)
    (exchanged := ?exchanged) (currentSent := ?currentSent) (moved := ?moved) (microstepped := ?microstepped)
    ?_ ?_ ?_ ?_ ?_ ?_ ?_ ?_ i s t h hi
  case exchanged => exact fun v s d hi => pinsIdle_iff.2 ⟨rfl, (pinsIdle_iff.1 hi).2⟩
  case currentSent => exact fun mA s _ hi => pinsIdle_iff.2 ⟨rfl, (pinsIdle_iff.1 hi).2⟩
  case moved =>
    intro s _ hi
    obtain ⟨hcs, -, hdir⟩ := pinsIdle_iff.1 hi
    rw [pulsed, pulsePins_eq]
    exact pinsIdle_iff.2 ⟨hcs, rfl, by simp [hdir]⟩
  case microstepped =>
    rintro q s s' (⟨-, rfl⟩ | ⟨-, rfl⟩)
    · exact ⟨fun _ hi => hi, fun hi => hi⟩
    · exact ⟨fun _ hi => pinsIdle_iff.2 ⟨rfl, (pinsIdle_iff.1 hi).2⟩,
        fun hi => pinsIdle_iff.2 ⟨rfl, (pinsIdle_iff.1 hi).2⟩⟩
  all_goals intros; assumption

theorem execSetMicrosteps_next_regs {q : Int} {s t : State} (h : execSetMicrosteps q s = .next t) :
    t.regs = (microstepsSet q s).regs := by
  rcases execSetMicrosteps_eq_next h with ⟨-, h⟩ | ⟨-, -, h⟩ <;> rcases speedCompute_eq_next h with ⟨d, rfl⟩ | h
  · rfl
  · rw [raise_divideByZero_eq_next h]; rfl
  · rfl
  · rw [raise_divideByZero_eq_next h]; rfl

/-- SET_MICROSTEPS leaves a code it made; every other command leaves MSC alone. -/
theorem exec_next_mres_le {i : Instr} {s t : State} (h : exec i s = .next t) (hi : s.Inv) : t.mres.toNat ≤ 8 := by
  have hcfg := exec_next_cfg h
  by_cases hq : ∃ q, i = .setMicrosteps q
  · obtain ⟨q, rfl⟩ := hq
    have hmres : t.mres = (microstepsSet q s).mres := by
      rw [State.mres, hcfg, execSetMicrosteps_next_regs h]
      rfl
    rw [hmres, setMres_mres hi.legalConfig]
    exact microstepCode_le _
  · obtain ⟨-, -, -, hmsc, -⟩ := exec_next_writesOwnedOnly h
    rw [State.mres, hcfg, hmsc fun q hiq => hq ⟨q, hiq⟩]
    exact hi.microstepCode

theorem exec_next_inv {i : Instr} {s t : State} (h : exec i s = .next t) (hi : s.Inv) : t.Inv where
  legalConfig := by rw [exec_next_cfg h]; exact hi.legalConfig
  signatures := by
    obtain ⟨hout, -⟩ := exec_next_writesOwnedOnly h
    refine signaturesHold_iff.2 fun k => ?_
    rw [exec_next_cfg h, ← signaturesHold_iff.1 hi.signatures k]
    exact and_eq_and_of_eq_outside (hout k) (Config.legal_sigMask_ownedMask hi.legalConfig k)
  microstepCode := exec_next_mres_le h hi
  pinsIdle := exec_next_pinsIdle h hi.pinsIdle

/-- An update within the host's duties touches no signature bit and no bit of `mres` (44_host_register_clients.md R191). -/
theorem hostUpdate_inv {s : State} {k : RegName} {mask : Reg} (hi : s.Inv) (hm : hostMaskLegal s.cfg k mask = true)
    (bits : Reg) : ({ s with regs := s.regs.set k (hostMerge (s.regs.get k) mask bits) } : State).Inv := by
  simp only [hostMaskLegal, Bool.and_eq_true, beq_iff_eq] at hm
  obtain ⟨hsig, hown⟩ := hm
  refine ⟨hi.legalConfig, signaturesHold_iff.2 fun j => ?_, ?_, hi.pinsIdle⟩
  · rw [← signaturesHold_iff.1 hi.signatures j]
    by_cases hj : j = k
    · subst hj
      rw [RegSet.get_set]
      exact hostMerge_under hsig
    · exact congrArg (· &&& _) (RegSet.get_set_ne _ _ hj)
  · cases k
    case msc => exact (congrArg BitVec.toNat (getField_merge s.regs.msc mask bits hown)).trans_le hi.microstepCode
    all_goals exact hi.microstepCode

theorem afterReset_inv {s : State} (h : s.cfg.legal = true) (es : List Event) (n : Nat) : (afterReset s es n).Inv :=
  (resetOf_inv h).of_same rfl rfl rfl

/-- Settles O47: a step is idle, a command, a lawful update, a change of the time input, or a reset. -/
theorem everyStepKeepsTheInvariants : Obligations.EveryStepKeepsTheInvariants := by
  intro s t hi h
  obtain ⟨hl, h⟩ := step_eq_next h
  have hrest : ∀ rest, ({ s with host := rest } : State).Inv := fun rest => hi.of_same rfl rfl hi.pinsIdle
  rcases h with ⟨-, rfl⟩ | ⟨w, rest, i, -, -, hx⟩ | ⟨k, mask, bits, rest, -, hm, rfl⟩ |
    ⟨now, rest, -, rfl⟩ | ⟨rest, -, hr⟩ | ⟨w, n, rest, i, -, -, hc⟩
  · exact hi
  · exact exec_next_inv hx (hrest rest)
  · exact hostUpdate_inv (hrest rest) hm bits
  · exact hi.of_same rfl rfl hi.pinsIdle
  · rw [takeReset_eq] at hr
    cases hr
    exact afterReset_inv (s := { s with host := rest }) hl _ _
  · obtain ⟨ev, a, -, rfl⟩ := cutByReset_eq_next hc
    exact afterReset_inv (s := { s with host := rest }) hl _ _

/-! ### What no command decides by (10_state.md R24, R26, R31)

Three claims have one shape: two states that differ in a part no command reads go on alike. `AgreeInReads` is what the
commands read, `KeptByWrites` that a relation lies inside it and outlives every write, `exec_goesOnAlike` the claim for
every such relation. -/

theorem raise_of_ne_divideByZero {c : Cause} (hc : c ≠ .divideByZero) (s : State) :
    raise c s = .next (s.respondWith c.response) := by
  simp [raise, hc, State.respondWith]

/-- Agreement in all that a command other than RD_STATUS reads. -/
structure AgreeInReads (s s' : State) : Prop where
  cfg : s'.cfg = s.cfg
  mres : s'.mres = s.mres
  cs : s'.cs = s.cs
  vsense : s'.vsense = s.vsense
  stepsLeft : s'.stepsLeft = s.stepsLeft
  direction : s'.direction = s.direction
  stepDelay : s'.stepDelay = s.stepDelay
  lastStepTime : s'.lastStepTime = s.lastStepTime
  rpm : s'.rpm = s.rpm
  started : s'.started = s.started
  timeUs : s'.timeUs = s.timeUs
  bus : s'.bus = s.bus
  busTransfers : s'.busTransfers = s.busTransfers

/-- A relation that implies agreement in what is read, and that each write of a command keeps when both states make it. -/
structure KeptByWrites (R : State → State → Prop) : Prop where
  reads : ∀ {s s'}, R s s' → AgreeInReads s s'
  responded : ∀ {s s'}, R s s' → ∀ r, R (s.respondWith r) (s'.respondWith r)
  marked : ∀ {s s'}, R s s' → R { s with divideByZeroSeen := true } { s' with divideByZeroSeen := true }
  moveStored : ∀ {s s'}, R s s' → ∀ n d,
    R { s with stepsLeft := n, direction := d } { s' with stepsLeft := n, direction := d }
  pulsed : ∀ {s s'}, R s s' → R (pulsed s) (pulsed s')
  rpmStored : ∀ {s s'}, R s s' → ∀ r, R { s with rpm := r } { s' with rpm := r }
  delayStored : ∀ {s s'}, R s s' → ∀ d, R { s with stepDelay := d } { s' with stepDelay := d }
  startedStored : ∀ {s s'}, R s s' → ∀ b, R { s with started := b } { s' with started := b }
  mresStored : ∀ {s s'}, R s s' → ∀ c, R (s.setMres c) (s'.setMres c)
  currentStored : ∀ {s s'}, R s s' → ∀ v c, R ((s.setVsense v).setCs c) ((s'.setVsense v).setCs c)
  exchanged : ∀ {s s'}, R s s' → ∀ v, R (afterExchange v s) (afterExchange v s')
  sent : ∀ {s s'}, R s s' → ∀ k, R (afterExchange (s.regs.get k) s) (afterExchange (s'.regs.get k) s')

/-- Where the first outcome is a next state, so is the second, and the two states are related. -/
def GoesOnAlike (R : State → State → Prop) (o o' : Result) : Prop :=
  ∀ t, o = .next t → ∃ t', o' = .next t' ∧ R t t'

section
variable {R : State → State → Prop} {s s' : State}

theorem goesOnAlike_next (h : R s s') : GoesOnAlike R (.next s) (.next s') := by
  rintro _ ⟨⟩
  exact ⟨s', rfl, h⟩

theorem goesOnAlike_refused (r : Refusal) (o : Result) : GoesOnAlike R (.refused r) o := nofun

theorem goesOnAlike_andThen {o o' : Result} {k k' : State → Result} (ho : GoesOnAlike R o o')
    (hk : ∀ s s', R s s' → GoesOnAlike R (k s) (k' s')) : GoesOnAlike R (andThen o k) (andThen o' k') := by
  intro t h
  obtain ⟨a, ha, h⟩ := andThen_eq_next h
  obtain ⟨a', rfl, hR⟩ := ho a ha
  exact hk a a' hR t h

theorem goesOnAlike_ite {p p' : Prop} [Decidable p] [Decidable p'] {a a' b b' : Result} (hp : p' ↔ p)
    (ha : GoesOnAlike R a a') (hb : GoesOnAlike R b b') :
    GoesOnAlike R (if p then a else b) (if p' then a' else b') := by
  simp only [hp]
  split
  case isTrue => exact ha
  case isFalse => exact hb

theorem AgreeInReads.busAnswer (h : AgreeInReads s s') (k : Nat) : s'.busAnswer k = s.busAnswer k := by
  simp only [State.busAnswer, h.bus, h.busTransfers]

theorem AgreeInReads.replyByte (h : AgreeInReads s s') (k : Nat) : s'.replyByte k = s.replyByte k := by
  simp only [State.replyByte, h.busAnswer]

theorem AgreeInReads.busAnswers (h : AgreeInReads s s') (n : Nat) : s'.busAnswers n = s.busAnswers n := by
  simp only [State.busAnswers, h.busAnswer]

/-- The reply of an exchange is the transport's: no register's value is read for it. -/
theorem AgreeInReads.afterExchange_status (h : AgreeInReads s s') (v v' : Reg) :
    (afterExchange v' s').status = (afterExchange v s).status := by
  simp only [afterExchange, h.replyByte]

theorem AgreeInReads.moving (h : AgreeInReads s s') : s'.moving = s.moving := by
  simp only [State.moving, h.stepsLeft]

theorem AgreeInReads.pulseDue (h : AgreeInReads s s') : pulseDue s'.now s' = pulseDue s.now s := by
  rw [Bool.eq_iff_iff, pulseDue_iff, pulseDue_iff, h.stepsLeft, h.stepDelay, h.timeUs, h.lastStepTime]

variable (hR : KeptByWrites R) (h : R s s')
include hR h

theorem goesOnAlike_respondOk (d : Word) : GoesOnAlike R (respondOk d s) (respondOk d s') :=
  goesOnAlike_next (hR.responded h _)

theorem goesOnAlike_raise (c : Cause) : GoesOnAlike R (raise c s) (raise c s') := by
  by_cases hc : c = .divideByZero
  · subst hc
    rw [raise_divideByZero, raise_divideByZero]
    exact goesOnAlike_next (hR.marked (hR.responded h _))
  · rw [raise_of_ne_divideByZero hc, raise_of_ne_divideByZero hc]
    exact goesOnAlike_next (hR.responded h _)

theorem goesOnAlike_send (k : RegName) :
    GoesOnAlike R (exchange (s.regs.get k) s) (exchange (s'.regs.get k) s') := by
  intro t ht
  obtain ⟨hb, rfl⟩ := exchange_eq_next ht
  exact ⟨_, exchange_completes (((hR.reads h).busAnswers 3).trans hb), hR.sent h k⟩

theorem goesOnAlike_speedCompute (r : Half) : GoesOnAlike R (speedCompute r s) (speedCompute r s') := by
  simp only [speedCompute, (hR.reads h).mres]
  split
  case h_1 => exact goesOnAlike_refused _ _
  case h_2 m _ =>
    have hdelay : stepDelayFor s'.cfg.stepsPerRev r.toNat m = stepDelayFor s.cfg.stepsPerRev r.toNat m := by
      rw [(hR.reads h).cfg]
    rw [hdelay]
    split
    case h_1 => exact goesOnAlike_raise hR h _
    case h_2 d _ => exact goesOnAlike_respondOk hR (hR.delayStored h d) _

theorem goesOnAlike_execExchange (v : Nat) : GoesOnAlike R (execExchange v s) (execExchange v s') := by
  intro t ht
  obtain ⟨hb, rfl⟩ := execExchange_eq_next ht
  refine ⟨_, by rw [execExchange, exchange_completes (((hR.reads h).busAnswers 3).trans hb)]; rfl, ?_⟩
  rw [(hR.reads h).afterExchange_status (BitVec.ofNat 20 v)]
  exact hR.responded (hR.exchanged h _) _

theorem goesOnAlike_execSetCurrent (mA : Nat) : GoesOnAlike R (execSetCurrent mA s) (execSetCurrent mA s') := by
  simp only [execSetCurrent, (hR.reads h).cfg]
  have hset := hR.currentStored h (quantize s.cfg.rSense mA).2 (quantize s.cfg.rSense mA).1
  exact goesOnAlike_ite (by simp only [(hR.reads hset).started])
    (goesOnAlike_andThen (goesOnAlike_send hR hset .drv) fun _ _ hdrv =>
      goesOnAlike_andThen (goesOnAlike_send hR hdrv .cur) fun _ _ hcur => goesOnAlike_respondOk hR hcur _)
    (goesOnAlike_respondOk hR hset _)

theorem goesOnAlike_execSetMicrosteps (q : Int) :
    GoesOnAlike R (execSetMicrosteps q s) (execSetMicrosteps q s') := by
  have hset := hR.mresStored h (microstepCode (microstepRound q))
  refine goesOnAlike_andThen ?_ fun a a' ha => ?_
  · exact goesOnAlike_ite (by rw [(hR.reads hset).started]) (goesOnAlike_send hR hset .msc) (goesOnAlike_next hset)
  · rw [(hR.reads ha).rpm]
    exact goesOnAlike_speedCompute hR ha _

theorem goesOnAlike_execSetSpeed (r : Nat) : GoesOnAlike R (execSetSpeed r s) (execSetSpeed r s') := by
  exact goesOnAlike_ite Iff.rfl (goesOnAlike_raise hR h _) (goesOnAlike_speedCompute hR (hR.rpmStored h _) _)

theorem goesOnAlike_execStep (n : Int) : GoesOnAlike R (execStep n s) (execStep n s') := by
  simp only [execStep, (hR.reads h).direction]
  exact goesOnAlike_ite (by rw [(hR.reads h).moving]) (goesOnAlike_raise hR h _)
    (goesOnAlike_respondOk hR (hR.moveStored h _ _) _)

theorem goesOnAlike_execMove : GoesOnAlike R (execMove s) (execMove s') :=
  goesOnAlike_ite (by rw [(hR.reads h).pulseDue]) (goesOnAlike_respondOk hR (hR.pulsed h) _)
    (goesOnAlike_respondOk hR h _)

theorem goesOnAlike_execGetMicrosteps : GoesOnAlike R (execGetMicrosteps s) (execGetMicrosteps s') := by
  simp only [execGetMicrosteps, (hR.reads h).mres]
  split
  case h_1 => exact goesOnAlike_refused _ _
  case h_2 => exact goesOnAlike_respondOk hR h _

theorem goesOnAlike_execGetCurrent : GoesOnAlike R (execGetCurrent s) (execGetCurrent s') := by
  simp only [execGetCurrent, (hR.reads h).cfg, (hR.reads h).cs, (hR.reads h).vsense]
  exact goesOnAlike_ite Iff.rfl (goesOnAlike_refused _ _) (goesOnAlike_respondOk hR h _)

/-- Related states go on alike under every command; RD_STATUS alone reads more, the status word. -/
theorem exec_goesOnAlike (i : Instr) (hst : i = .rdStatus → s'.status = s.status) :
    GoesOnAlike R (exec i s) (exec i s') := by
  have hr := hR.reads h
  cases i <;> simp only [exec]
  case exchange v => exact goesOnAlike_execExchange hR h v
  case rdStatus => rw [execRdStatus, execRdStatus, hst rfl]; exact goesOnAlike_respondOk hR h _
  case setCurrent mA => exact goesOnAlike_execSetCurrent hR h mA
  case getCurrent => exact goesOnAlike_execGetCurrent hR h
  case isCurrentScalingHalfed =>
    rw [execIsCurrentScalingHalfed, execIsCurrentScalingHalfed, hr.vsense]; exact goesOnAlike_respondOk hR h _
  case getResistor => rw [execGetResistor, execGetResistor, hr.cfg]; exact goesOnAlike_respondOk hR h _
  case step n => exact goesOnAlike_execStep hR h n
  case move => exact goesOnAlike_execMove hR h
  case stop => rw [execStop, execStop, hr.moving]; exact goesOnAlike_respondOk hR (hR.moveStored h _ _) _
  case setSpeed r => exact goesOnAlike_execSetSpeed hR h r
  case setMicrosteps q => exact goesOnAlike_execSetMicrosteps hR h q
  case isMoving => rw [execIsMoving, execIsMoving, hr.moving]; exact goesOnAlike_respondOk hR h _
  case getStepsLeft => rw [execGetStepsLeft, execGetStepsLeft, hr.stepsLeft]; exact goesOnAlike_respondOk hR h _
  case getMicrosteps => exact goesOnAlike_execGetMicrosteps hR h
  case start => exact goesOnAlike_respondOk hR (hR.startedStored h true) _
  case unstart => exact goesOnAlike_respondOk hR (hR.startedStored h false) _

end
/-! ### The status word and the next step time -/

/-- Two states that differ in the status word alone. -/
def differInStatus (s s' : State) : Prop := ∃ x, s' = { s with status := x }

theorem keptByWrites_differInStatus : KeptByWrites differInStatus := by
  constructor <;> rintro s _ ⟨x, rfl⟩
  case reads => constructor <;> rfl
  case pulsed => exact ⟨x, by simp only [pulsed, pulsePins_eq, State.now]⟩
  all_goals intros; exact ⟨_, rfl⟩

/-- Settles O52: RD_STATUS, which reads the word, is left out by the statement. -/
theorem statusIsReadForNoDecision : Obligations.StatusIsReadForNoDecision := by
  intro i s t x hi h
  obtain ⟨_, ht, y, rfl⟩ :=
    exec_goesOnAlike keptByWrites_differInStatus (s := s) ⟨x, rfl⟩ i (fun hrd => absurd hrd hi) t h
  exact ⟨y, ht⟩

/-- Two states that differ in the next step time alone. -/
def differInNextStepTime (s s' : State) : Prop := ∃ x, s' = { s with nextStepTime := x }

theorem keptByWrites_differInNextStepTime : KeptByWrites differInNextStepTime := by
  constructor <;> rintro s _ ⟨x, rfl⟩
  case reads => constructor <;> rfl
  case pulsed => exact ⟨s.now + s.stepDelay, by simp only [pulsed, pulsePins_eq, State.now]⟩
  all_goals intros; exact ⟨_, rfl⟩

/-- Settles O53: RD_STATUS too finds the status it found. -/
theorem nextStepTimeIsUnobservable : Obligations.NextStepTimeIsUnobservable := by
  intro i s t x h
  obtain ⟨_, ht, y, rfl⟩ :=
    exec_goesOnAlike keptByWrites_differInNextStepTime (s := s) ⟨x, rfl⟩ i (fun _ => rfl) t h
  exact ⟨y, ht⟩

/-! ### Host-owned bits -/

@[simp] theorem pulses_append (a b : List Event) : pulses (a ++ b) = pulses a + pulses b := List.countP_append

theorem pulses_pulseEvents (d : Direction) : pulses (pulseEvents d) = 1 := by cases d <;> rfl

theorem pulses_afterExchange (v : Reg) (s : State) : pulses (afterExchange v s).trace = pulses s.trace := by
  rw [afterExchange_trace, pulses_append]
  rfl

/-- States of one legal configuration that may differ in host-owned bits, and so in the frames sent. -/
structure differInHostBits (s s' : State) : Prop where
  legal : s.cfg.legal = true
  reads : AgreeInReads s s'
  responses : s'.responses = s.responses
  status : s'.status = s.status
  nextStepTime : s'.nextStepTime = s.nextStepTime
  pulses : pulses s'.trace = pulses s.trace

theorem differInHostBits.legal' {s s' : State} (h : differInHostBits s s') : s'.cfg.legal = true := by
  rw [h.reads.cfg]
  exact h.legal

theorem differInHostBits_afterExchange {s s' : State} (h : differInHostBits s s') (v v' : Reg) :
    differInHostBits (afterExchange v s) (afterExchange v' s') where
  legal := h.legal
  reads := { h.reads with
    bus := congrArg (List.drop 3) h.reads.bus
    busTransfers := congrArg (· + 3) h.reads.busTransfers }
  responses := h.responses
  status := h.reads.afterExchange_status v v'
  nextStepTime := h.nextStepTime
  pulses := by rw [pulses_afterExchange, pulses_afterExchange, h.pulses]

theorem keptByWrites_differInHostBits : KeptByWrites differInHostBits where
  reads h := h.reads
  responded h r := { h with
    reads := { h.reads with }
    responses := congrArg (· ++ [r]) h.responses }
  marked h := { h with reads := { h.reads with } }
  moveStored h n d := { h with reads := { h.reads with stepsLeft := rfl, direction := rfl } }
  pulsed := by
    intro s s' h
    rw [pulsed, pulsed, pulsePins_eq, pulsePins_eq]
    exact { h with
      reads := { h.reads with
        stepsLeft := congrArg (· - 1#32) h.reads.stepsLeft
        lastStepTime := h.reads.timeUs }
      nextStepTime := congrArg₂ (· + ·) h.reads.timeUs h.reads.stepDelay
      pulses := by simp only [pulses_append, pulses_pulseEvents, h.pulses] }
  rpmStored h r := { h with reads := { h.reads with rpm := rfl } }
  delayStored h d := { h with reads := { h.reads with stepDelay := rfl } }
  startedStored h b := { h with reads := { h.reads with started := rfl } }
  mresStored h c := { h with reads := { h.reads with mres := by rw [setMres_mres h.legal', setMres_mres h.legal] } }
  currentStored h v c := { h with
    reads := { h.reads with
      cs := by rw [setCs_cs (by exact h.legal'), setCs_cs (by exact h.legal)]
      vsense := by rw [State.setCs_vsense, setVsense_vsense h.legal', State.setCs_vsense, setVsense_vsense h.legal] } }
  exchanged h v := differInHostBits_afterExchange h v v
  sent h k := differInHostBits_afterExchange h _ _

/-- Settles O54: the registers are read through the three owned fields alone, and sent without being read. -/
theorem hostBitsAreReadForNoDecision : Obligations.HostBitsAreReadForNoDecision := by
  intro i s t r hl hmres hcs hvs ht
  have hstart : differInHostBits s { s with regs := r } :=
    ⟨hl, ⟨rfl, hmres, hcs, hvs, rfl, rfl, rfl, rfl, rfl, rfl, rfl, rfl, rfl⟩, rfl, rfl, rfl, rfl⟩
  obtain ⟨t', ht', h⟩ := exec_goesOnAlike keptByWrites_differInHostBits hstart i (fun _ => rfl) t ht
  exact ⟨t', ht', h.responses, h.status, h.reads.stepsLeft, h.reads.direction, h.reads.stepDelay,
    h.reads.lastStepTime, h.nextStepTime, h.reads.rpm, h.reads.started, h.pulses, h.reads.mres, h.reads.cs,
    h.reads.vsense⟩

end Sys2Proof.Machine

/-! ### Proofs for 20_memory.md: what every step leaves in the trace -/

namespace Sys2Proof.Machine

/-! ### Traces that are whole, traces that are closed (20_memory.md R65, R69) -/

section
variable {a b : List Event}

theorem traceWhole_append (ha : traceWhole a = true) (hb : traceWhole b = true) : traceWhole (a ++ b) = true := by
  fun_induction traceWhole a
  case case1 => exact hb
  case case5 => cases ha
  all_goals exact ‹traceWhole _ = true → _› ha

theorem traceClosed_append (ha : traceClosed a = true) (hb : traceClosed b = true) : traceClosed (a ++ b) = true := by
  fun_induction traceClosed a
  case case1 => exact hb
  case case9 => cases ha
  all_goals exact ‹traceClosed _ = true → _› ha

theorem traceClosed_of_traceWhole (ha : traceWhole a = true) : traceClosed a = true := by
  fun_induction traceWhole a
  case case1 => rfl
  case case5 => cases ha
  all_goals exact ‹traceWhole _ = true → _› ha

end

theorem traceWhole_of_completedEvents {ev : List Event} (h : completedEvents ev) : traceWhole ev = true := by
  rcases h with rfl | ⟨_, _, _, _, rfl⟩ | ⟨_, _, _, _, _, _, _, _, rfl⟩ | rfl | rfl <;> rfl

/-! ### Events cut short by `rst` (70_reset_and_hazards.md R250, R252) -/

theorem pinReleases_eq_nil {s : State} (h : s.pinsIdle = true) : s.pinReleases = [] := by
  obtain ⟨hcs, hstep, hdir⟩ := pinsIdle_iff.1 h
  simp only [State.pinReleases, hcs, hstep, hdir]
  rfl

/-- From idle pins, the events cut anywhere and followed by what `rst` then releases are a closed trace. -/
def closedWhenCut (ev : List Event) : Prop :=
  ∀ s : State, s.pinsIdle = true → ∀ n,
    traceClosed (ev.take n ++ ((ev.take n).foldl State.emitted s).pinReleases) = true

/-- The events take the pins from idle back to idle. -/
def keepsPinsIdle (ev : List Event) : Prop :=
  ∀ s : State, s.pinsIdle = true → (ev.foldl State.emitted s).pinsIdle = true

theorem keepsPinsIdle_bracket (v : Reg) (a b c : Byte) : keepsPinsIdle (bracket v a b c) := by
  intro s hi
  obtain ⟨-, hstep, hdir⟩ := pinsIdle_iff.1 hi
  simp [pinsIdle_iff, bracket, State.emitted, State.transferred, State.drivePin, hstep, hdir]

theorem closedWhenCut_take {ev : List Event} (h : closedWhenCut ev) (m : Nat) : closedWhenCut (ev.take m) := by
  intro s hi n
  rw [List.take_take]
  exact h s hi _

theorem closedWhenCut_nil : closedWhenCut [] := by
  intro s hi n
  simp [pinReleases_eq_nil hi, traceClosed]

/-- A cut falls in the first part, or after it, where the pins are idle again. -/
theorem closedWhenCut_append {a b : List Event} (ha : closedWhenCut a) (hidle : keepsPinsIdle a)
    (hb : closedWhenCut b) : closedWhenCut (a ++ b) := by
  intro s hi n
  rcases Nat.le_total n a.length with hn | hn
  · rw [List.take_append_of_le_length hn]
    exact ha s hi n
  · have hwhole : traceClosed a = true := by
      simpa [pinReleases_eq_nil (hidle s hi)] using ha s hi a.length
    rw [List.take_append, List.take_of_length_le hn, List.foldl_append, List.append_assoc]
    exact traceClosed_append hwhole (hb _ (hidle s hi) _)

/-- The cut falls before one of the five events, or after them all. -/
theorem closedWhenCut_bracket (v : Reg) (a b c : Byte) : closedWhenCut (bracket v a b c) := by
  intro s hi n
  obtain ⟨hcs, hstep, hdir⟩ := pinsIdle_iff.1 hi
  rcases n with _ | _ | _ | _ | _ | n <;>
    simp [bracket, State.emitted, State.transferred, State.drivePin, State.pinReleases, traceClosed, hcs, hstep, hdir]

/-- A cut inside a pulse leaves at most STEP and DIR to release. -/
theorem closedWhenCut_pulseEvents (d : Direction) : closedWhenCut (pulseEvents d) := by
  intro s hi n
  obtain ⟨hcs, hstep, hdir⟩ := pinsIdle_iff.1 hi
  cases d <;> rcases n with _ | _ | _ | _ | n <;>
    simp [pulseEvents, State.emitted, State.drivePin, State.pinReleases, traceClosed, hcs, hstep, hdir]

theorem closedWhenCut_of_completedEvents {ev : List Event} (h : completedEvents ev) : closedWhenCut ev := by
  rcases h with rfl | ⟨v, a, b, c, rfl⟩ | ⟨v, a, b, c, v', a', b', c', rfl⟩ | rfl | rfl
  · exact closedWhenCut_nil
  · exact closedWhenCut_bracket v a b c
  · exact closedWhenCut_append (closedWhenCut_bracket v a b c) (keepsPinsIdle_bracket v a b c)
      (closedWhenCut_bracket v' a' b' c')
  · exact closedWhenCut_pulseEvents .forward
  · exact closedWhenCut_pulseEvents .reverse

theorem closedWhenCut_of_hungEvents {ev : List Event} (h : hungEvents ev) : closedWhenCut ev := by
  obtain ⟨v, a, b, c, k, -, rfl | ⟨v', a', b', c', rfl⟩⟩ := h
  · exact closedWhenCut_take (closedWhenCut_bracket v a b c) (k + 1)
  · exact closedWhenCut_append (closedWhenCut_bracket v' a' b' c') (keepsPinsIdle_bracket v' a' b' c')
      (closedWhenCut_take (closedWhenCut_bracket v a b c) (k + 1))

/-! ### What one step appends to the trace -/

/-- A step cut by `rst` appends a closed trace; every other step appends a whole one. -/
theorem step_next_events {s t : State} (hi : s.pinsIdle = true) (h : step s = .next t) :
    ∃ ev, t.trace = s.trace ++ ev ∧
      (traceWhole ev = true ∨ (∃ w n rest, s.host = .resetDuring w n :: rest) ∧ traceClosed ev = true) := by
  obtain ⟨-, h⟩ := step_eq_next h
  rcases h with ⟨-, rfl⟩ | ⟨w, rest, i, -, -, hx⟩ | ⟨k, mask, bits, rest, -, -, rfl⟩ |
    ⟨now, rest, -, rfl⟩ | ⟨rest, -, hr⟩ | ⟨w, n, rest, i, hh, -, hc⟩
  · exact ⟨[], (List.append_nil _).symm, .inl rfl⟩
  · obtain ⟨ev, htrace, hev⟩ := exec_next_events hx
    exact ⟨ev, htrace, .inl (traceWhole_of_completedEvents hev)⟩
  · exact ⟨[], (List.append_nil _).symm, .inl rfl⟩
  · exact ⟨[], (List.append_nil _).symm, .inl rfl⟩
  · rw [takeReset] at hr
    cases hr
    have hnone : ({ s with host := rest } : State).pinReleases = [] := pinReleases_eq_nil hi
    exact ⟨[], congrArg (s.trace ++ ·) hnone, .inl rfl⟩
  · obtain ⟨ev, a, hev, rfl⟩ := cutByReset_eq_next hc
    have hclosed : closedWhenCut ev := hev.elim closedWhenCut_of_completedEvents closedWhenCut_of_hungEvents
    exact ⟨_, List.append_assoc _ _ _, .inr ⟨⟨w, n, rest, hh⟩, hclosed { s with host := rest } hi n⟩⟩

/-- Settles O49: whole traces and closed traces can be appended, and a whole one is closed. -/
theorem everyStepKeepsTheTraceWhole : Obligations.EveryStepKeepsTheTraceWhole := by
  intro s t hi h
  obtain ⟨ev, htrace, hev⟩ := step_next_events hi h
  rw [htrace]
  rcases hev with hwhole | ⟨⟨w, n, rest, hh⟩, hclosed⟩
  · exact ⟨fun _ hs => traceWhole_append hs hwhole,
      fun hs => traceClosed_append hs (traceClosed_of_traceWhole hwhole)⟩
  · exact ⟨fun hno => absurd hh (hno w n rest), fun hs => traceClosed_append hs hclosed⟩

end Sys2Proof.Machine

/-! ### Proofs for 30_encoding.md: decoder and encoder, the opcode table, responses, replies -/

namespace Sys2Proof

/-! ### The word and its two fields (R80) -/

theorem opField_append_argField (w : CommandWord) : opField w ++ argField w = w :=
  BitVec.extractLsb'_append_extractLsb' (w := 8) (len := 32)

theorem append_eq_iff {op : BitVec 8} {arg : Word} {w : CommandWord} :
    op ++ arg = w ↔ op = opField w ∧ arg = argField w := by
  constructor
  · rintro rfl
    exact ⟨(opField_append op arg).symm, (argField_append op arg).symm⟩
  · rintro ⟨rfl, rfl⟩
    exact opField_append_argField w

/-! ### Operands (R81)

`operandWidth` and `readOperand` say of a command what the decoder's arm for its opcode does; `decode_of_opcode` and
`decode_eq_ok_iff_fields` tie them to `decode`. -/

/-- How many low bits of `arg` the command uses. -/
def Instr.operandWidth : Instr → Nat
  | .exchange _ => 20
  | .setCurrent _ | .setSpeed _ | .setMicrosteps _ => 16
  | .step _ => 32
  | _ => 0

/-- The same command with the operand that `arg` holds. -/
def Instr.readOperand (arg : Word) : Instr → Instr
  | .exchange _ => .exchange (arg.setWidth 20).toNat
  | .setCurrent _ => .setCurrent (arg.setWidth 16).toNat
  | .step _ => .step arg.toInt
  | .setSpeed _ => .setSpeed (arg.setWidth 16).toNat
  | .setMicrosteps _ => .setMicrosteps (arg.setWidth 16).toInt
  | i => i

@[simp] theorem Instr.mnemonic_readOperand (i : Instr) (arg : Word) : (i.readOperand arg).mnemonic = i.mnemonic := by
  cases i <;> rfl

/-- Bits that are zero above `k` are the `k` low bits, zero-extended. -/
theorem setWidth_setWidth_of_ushiftRight_eq_zero {arg : Word} {k : Nat} (h : arg >>> k = 0#32) :
    (arg.setWidth k).setWidth 32 = arg := by
  apply BitVec.eq_of_getLsbD_eq
  intro i hi
  simp only [BitVec.getLsbD_setWidth, hi, decide_true, Bool.true_and]
  by_cases hik : i < k
  · simp [hik]
  · have hbit := congrArg (BitVec.getLsbD · (i - k)) h
    simp only [BitVec.getLsbD_ushiftRight, BitVec.getLsbD_zero, Nat.add_sub_cancel' (Nat.le_of_not_lt hik)] at hbit
    simp [hik, hbit]

theorem unusedZero_and_setWidth_eq_iff {k : Nat} (hk : k ≤ 32) {arg : Word} {v : BitVec k} :
    arg >>> k = 0#32 ∧ arg.setWidth k = v ↔ v.setWidth 32 = arg := by
  constructor
  · rintro ⟨hz, rfl⟩
    exact setWidth_setWidth_of_ushiftRight_eq_zero hz
  · rintro rfl
    exact ⟨setWidth_shift v k le_rfl, by rw [BitVec.setWidth_setWidth_of_le _ hk, BitVec.setWidth_eq]⟩

theorem toInt_eq_iff {k : Nat} (hk : 0 < k) {q : Int} {v : BitVec k} :
    v.toInt = q ↔ (-2 ^ (k - 1) ≤ q ∧ q < 2 ^ (k - 1)) ∧ v = BitVec.ofInt k q := by
  constructor
  · rintro rfl
    exact ⟨⟨v.le_toInt, v.toInt_lt⟩, BitVec.ofInt_toInt.symm⟩
  · rintro ⟨⟨hlo, hhi⟩, rfl⟩
    exact BitVec.toInt_ofInt_eq_self hk hlo hhi

theorem natOperand_iff {k n : Nat} (hk : k ≤ 32) {arg : Word} :
    arg >>> k = 0#32 ∧ (arg.setWidth k).toNat = n ↔ n < 2 ^ k ∧ (BitVec.ofNat k n).setWidth 32 = arg := by
  rw [BitVec.toNat_eq_nat, ← unusedZero_and_setWidth_eq_iff hk, and_left_comm]

theorem intOperand_iff {k : Nat} (hk : k ≤ 32) (hpos : 0 < k) {q : Int} {arg : Word} :
    arg >>> k = 0#32 ∧ (arg.setWidth k).toInt = q ↔
      (-2 ^ (k - 1) ≤ q ∧ q < 2 ^ (k - 1)) ∧ (BitVec.ofInt k q).setWidth 32 = arg := by
  rw [toInt_eq_iff hpos, ← unusedZero_and_setWidth_eq_iff hk, and_left_comm]

/-- `arg` holds exactly the command's operand when the command is well formed and `arg` is its operand bits. -/
theorem readOperand_eq_self_iff {i : Instr} {arg : Word} :
    arg >>> i.operandWidth = 0#32 ∧ i.readOperand arg = i ↔ i.wellFormed = true ∧ i.operandBits = arg := by
  cases i <;> simp only [Instr.operandWidth, Instr.readOperand, Instr.wellFormed, Instr.operandBits,
    Bool.and_eq_true, decide_eq_true_eq, Instr.exchange.injEq, Instr.setCurrent.injEq, Instr.setSpeed.injEq,
    Instr.step.injEq, Instr.setMicrosteps.injEq]
  case exchange v => exact natOperand_iff (k := 20) (by decide)
  case setCurrent mA => exact natOperand_iff (k := 16) (by decide)
  case setSpeed r => exact natOperand_iff (k := 16) (by decide)
  case step n =>
    simpa only [BitVec.setWidth_eq] using intOperand_iff (k := 32) (q := n) (arg := arg) le_rfl (by decide)
  case setMicrosteps q => exact intOperand_iff (k := 16) (by decide) (by decide)
  all_goals simp only [BitVec.ushiftRight_zero, and_true, true_and]; exact eq_comm

/-! ### The decoder -/

/-- On the opcode of a command, the decoder checks the unused bits and reads the operand. -/
theorem decode_of_opcode {w : CommandWord} {i : Instr} (h : opField w = i.opcode) :
    decode w = ifUnusedZero i.opcode (argField w) i.operandWidth (i.readOperand (argField w)) := by
  unfold decode
  rw [h]
  cases i <;> rfl

theorem opField_of_decode {w : CommandWord} {i : Instr} (h : decode w = .ok i) : opField w = i.opcode := by
  unfold decode at h
  dsimp only at h
  split at h
  case h_17 => cases h
  all_goals
    obtain ⟨-, rfl⟩ := ifUnusedZero_eq_ok.1 h
    exact BitVec.eq_of_toNat_eq ‹_›

theorem decode_eq_ok_iff_fields {w : CommandWord} {i : Instr} :
    decode w = .ok i ↔
      opField w = i.opcode ∧ argField w >>> i.operandWidth = 0#32 ∧ i.readOperand (argField w) = i := by
  constructor
  · intro h
    have hop := opField_of_decode h
    rw [decode_of_opcode hop, ifUnusedZero_eq_ok] at h
    exact ⟨hop, h⟩
  · rintro ⟨hop, h⟩
    rw [decode_of_opcode hop, ifUnusedZero_eq_ok]
    exact h

/-- Both directions of R80-R82 at once: the word that decodes to a well-formed command is its encoding, and none decodes
to another command. -/
theorem decode_eq_ok_iff {w : CommandWord} {i : Instr} : decode w = .ok i ↔ i.wellFormed = true ∧ encode i = w := by
  rw [decode_eq_ok_iff_fields, readOperand_eq_self_iff, encode, append_eq_iff, and_left_comm, eq_comm (a := opField w)]

theorem decode_encode {i : Instr} (h : i.wellFormed = true) : decode (encode i) = .ok i :=
  decode_eq_ok_iff.2 ⟨h, rfl⟩

/-- Settles O2, from the characterisation of the decoder. -/
theorem decodeOfEncodeIsTheInstruction : Obligations.DecodeOfEncodeIsTheInstruction := fun _ h => decode_encode h

/-- Settles O3, from the characterisation of the decoder. -/
theorem encodeOfDecodeIsTheWord : Obligations.EncodeOfDecodeIsTheWord := fun _ _ h => decode_eq_ok_iff.1 h

/-- Settles O1: each word is the encoding of its command. -/
theorem wordsOfEveryFamilyDecode : Obligations.WordsOfEveryFamilyDecode := by
  refine ⟨?_, ?_, ?_, ?_, ?_⟩ <;> exact decode_eq_ok_iff.2 (by decide)

/-! ### The opcode table (R82) -/

/-- The word of every command lies in its own row: the family `EncodeInRow`, put together. -/
theorem encode_in_row : ∀ i : Instr, Laws.EncodeInRow.Statement i
  | .exchange v => Laws.EncodeInRow.exchange v
  | .rdStatus => Laws.EncodeInRow.rdStatus
  | .setCurrent mA => Laws.EncodeInRow.setCurrent mA
  | .getCurrent => Laws.EncodeInRow.getCurrent
  | .isCurrentScalingHalfed => Laws.EncodeInRow.isCurrentScalingHalfed
  | .getResistor => Laws.EncodeInRow.getResistor
  | .step n => Laws.EncodeInRow.step n
  | .move => Laws.EncodeInRow.move
  | .stop => Laws.EncodeInRow.stop
  | .setSpeed r => Laws.EncodeInRow.setSpeed r
  | .setMicrosteps q => Laws.EncodeInRow.setMicrosteps q
  | .isMoving => Laws.EncodeInRow.isMoving
  | .getStepsLeft => Laws.EncodeInRow.getStepsLeft
  | .getMicrosteps => Laws.EncodeInRow.getMicrosteps
  | .start => Laws.EncodeInRow.start
  | .unstart => Laws.EncodeInRow.unstart

theorem exists_row_of_decode {w : CommandWord} {i : Instr} (h : decode w = .ok i) :
    ∃ r ∈ opcodeTable, r.mnemonic = i.mnemonic ∧ w &&& r.mask = r.pattern := by
  obtain ⟨-, rfl⟩ := decode_eq_ok_iff.1 h
  obtain ⟨r, hr, hmn, hmatch⟩ := encode_in_row i
  exact ⟨r, hr, hmn, beq_iff_eq.1 hmatch⟩

/-- The row of a command: its opcode, and zero in every bit of `arg` it does not use. -/
def Instr.row (i : Instr) : OpcodeRow :=
  ⟨i.mnemonic, 0xFF#8 ++ BitVec.allOnes 32 <<< i.operandWidth, i.opcode ++ 0#32⟩

/-- One command of each row, in the table's order. -/
def Instr.ofEachRow : List Instr :=
  [.exchange 0, .rdStatus, .setCurrent 0, .getCurrent, .isCurrentScalingHalfed, .getResistor, .step 0, .move, .stop,
    .setSpeed 0, .setMicrosteps 0, .isMoving, .getStepsLeft, .getMicrosteps, .start, .unstart]

theorem opcodeTable_eq_map_row : opcodeTable = Instr.ofEachRow.map Instr.row := by decide

theorem exists_row_eq {r : OpcodeRow} (h : r ∈ opcodeTable) : ∃ i : Instr, i.row = r := by
  rw [opcodeTable_eq_map_row] at h
  obtain ⟨i, -, hi⟩ := List.mem_map.1 h
  exact ⟨i, hi⟩

theorem and_allOnes_shiftLeft_eq_zero {arg : Word} {k : Nat} (h : arg &&& BitVec.allOnes 32 <<< k = 0#32) :
    arg >>> k = 0#32 := by
  apply BitVec.eq_of_getLsbD_eq
  intro i hi
  have hbit := congrArg (BitVec.getLsbD · (k + i)) h
  by_cases hki : k + i < 32
  · simpa [hki, -BitVec.reduceAllOnes] using hbit
  · simp [BitVec.getLsbD_of_ge arg (k + i) (by omega)]

theorem matches_row {w : CommandWord} {i : Instr} (h : w &&& i.row.mask = i.row.pattern) :
    opField w = i.opcode ∧ argField w >>> i.operandWidth = 0#32 := by
  rw [← opField_append_argField w, Instr.row, and_append, append_eq_iff, opField_append, argField_append] at h
  obtain ⟨hop, harg⟩ := h
  exact ⟨(BitVec.and_allOnes (x := opField w)).symm.trans hop, and_allOnes_shiftLeft_eq_zero harg⟩

theorem decode_of_matches_row {w : CommandWord} {i : Instr} (h : w &&& i.row.mask = i.row.pattern) :
    decode w = .ok (i.readOperand (argField w)) := by
  obtain ⟨hop, hz⟩ := matches_row h
  rw [decode_of_opcode hop]
  exact ifUnusedZero_eq_ok.2 ⟨hz, rfl⟩

/-- The patterns of the table are distinct. -/
theorem opcodeTable_pattern_injective :
    ∀ r ∈ opcodeTable, ∀ r' ∈ opcodeTable, r.pattern = r'.pattern → r = r' := by decide

/-- Settles O4: a row is the row of a command, and two rows that match one word have one pattern, the opcode's. -/
theorem decoderAcceptsExactlyTheTable : Obligations.DecoderAcceptsExactlyTheTable := by
  refine ⟨fun w i h => exists_row_of_decode h, fun w r hr h => ?_, fun w r hr r' hr' h h' => ?_⟩
  · obtain ⟨i, rfl⟩ := exists_row_eq hr
    exact ⟨_, decode_of_matches_row h, i.mnemonic_readOperand _⟩
  · refine opcodeTable_pattern_injective r hr r' hr' ?_
    obtain ⟨i, rfl⟩ := exists_row_eq hr
    obtain ⟨j, rfl⟩ := exists_row_eq hr'
    have hop : i.opcode = j.opcode := (matches_row h).1.symm.trans (matches_row h').1
    exact congrArg (· ++ 0#32) hop

end Sys2Proof

namespace Sys2Proof.Machine

/-! ### Presented words (R84, R92) -/

/-- Settles O8: what decodes matches a row. -/
theorem illegalWordIsRefusedByName : Obligations.IllegalWordIsRefusedByName := by
  intro s w rest hl hh hno
  rw [step_of_command hl hh, runCommand]
  split
  case h_1 i hd =>
    obtain ⟨r, hr, -, hmatch⟩ := exists_row_of_decode hd
    exact absurd hmatch (hno r hr)
  case h_2 => rfl

/-- Settles O6: a register holds 20 bits, the operand range of EXCHANGE. -/
theorem sendPresentsTheRegister : Obligations.SendPresentsTheRegister :=
  fun k s => ⟨_, rfl, decode_encode (decide_eq_true (s.regs.get k).isLt)⟩

/-! ### Responses (R83) -/

/-- Settles O5, from the two parts of an append. -/
theorem responseWordLayout : Obligations.ResponseWordLayout := by
  rintro ⟨code, data⟩
  refine ⟨BitVec.extractLsb'_append_eq_right, BitVec.extractLsb'_append_eq_left.trans ?_⟩
  cases code <;> rfl

theorem microstepsSent_responses {q : Int} {s s' : State} (h : microstepsSent q s s') :
    s'.responses = s.responses := by
  rcases h with ⟨-, rfl⟩ | ⟨-, rfl⟩ <;> rfl

/-- Settles O41: every form of `exec_next_elim` ends in one `respondWith`, over a state with the old responses. -/
theorem oneResponsePerCompletedCommand : Obligations.OneResponsePerCompletedCommand := by
  unfold Obligations.OneResponsePerCompletedCommand
  apply exec_next_elim
  case moved =>
    intro s _
    rw [pulsed, pulsePins_eq]
    exact ⟨_, rfl⟩
  case microstepped =>
    intro q s s' hs
    have hresp := microstepsSent_responses hs
    exact ⟨fun _ => ⟨_, congrArg (· ++ [_]) hresp⟩, ⟨_, congrArg (· ++ [_]) hresp⟩⟩
  all_goals intros; exact ⟨_, rfl⟩

/-! ### Replies (R86) -/

theorem decodeReply_eq_extractLsb' (r0 r1 r2 : Byte) : decodeReply r0 r1 r2 = (r0 ++ r1 ++ r2).extractLsb' 4 20 := by
  apply BitVec.eq_of_getLsbD_eq
  intro i hi
  simp [decodeReply, Config.rxShift, hi]

theorem extractLsb'_extractLsb' {w : Nat} (x : BitVec w) (a : Nat) {m b n : Nat} (h : b + n ≤ m) :
    (x.extractLsb' a m).extractLsb' b n = x.extractLsb' (a + b) n := by
  apply BitVec.eq_of_getLsbD_eq
  intro i hi
  have him : b + i < m := by omega
  simp [hi, him, Nat.add_assoc]

/-- A slice that crosses the boundary of an append: the low `n` bits of the left part, above the right part's bits
from `b` up. -/
theorem extractLsb'_append_across {v w : Nat} (x : BitVec v) (y : BitVec w) {b n m : Nat} (h : b + m = w) :
    (x ++ y).extractLsb' b (n + m) = x.extractLsb' 0 n ++ y.extractLsb' b m := by
  apply BitVec.eq_of_getLsbD_eq
  intro i hi
  simp only [BitVec.getLsbD_extractLsb', BitVec.getLsbD_append, hi, decide_true, Bool.true_and]
  by_cases him : i < m
  · have hiw : b + i < w := by omega
    simp [him, hiw]
  · have hiw : ¬ b + i < w := by omega
    have hin : i - m < n := by omega
    have hsub : b + i - w = i - m := by omega
    simp [him, hiw, hin, hsub]

/-- Settles O14: readout and flags are slices of the 24 bits, each across the boundary of two bytes. -/
theorem replyDecodesLeftAligned : Obligations.ReplyDecodesLeftAligned := by
  intro r0 r1 r2
  refine ⟨decodeReply_eq_extractLsb' r0 r1 r2, ?_, ?_⟩ <;> rw [decodeReply_eq_extractLsb']
  · calc readoutValue ((r0 ++ r1 ++ r2).extractLsb' 4 20)
        = (r0 ++ r1 ++ r2).extractLsb' 14 10 := extractLsb'_extractLsb' _ 4 (by decide)
      _ = (r0 ++ r1).extractLsb' 6 10 := BitVec.extractLsb'_append_eq_of_le (by decide)
      _ = r0.extractLsb' 0 8 ++ r1.extractLsb' 6 2 := extractLsb'_append_across (n := 8) (m := 2) r0 r1 rfl
      _ = r0 ++ r1.extractLsb' 6 2 := by rw [BitVec.extractLsb'_eq_self]
  · calc flagBits ((r0 ++ r1 ++ r2).extractLsb' 4 20)
        = (r0 ++ r1 ++ r2).extractLsb' 4 10 := extractLsb'_extractLsb' _ 4 (by decide)
      _ = (r0 ++ r1).extractLsb' 0 6 ++ r2.extractLsb' 4 4 :=
        extractLsb'_append_across (n := 6) (m := 4) (r0 ++ r1) r2 rfl
      _ = r1.extractLsb' 0 6 ++ r2.extractLsb' 4 4 := by rw [BitVec.extractLsb'_append_eq_of_add_le (by decide)]

/-! ### Microstep codes (R88) -/

theorem microstepCount_of_lt {c : BitVec 4} (h : 8 < c.toNat) : microstepCount c = none := by
  simp [microstepCount, h]

/-- Settles O35: SET_SPEED reads the code it found, as storing `rpm` leaves it. -/
theorem codesWithoutCountAreRefused : Obligations.CodesWithoutCountAreRefused := by
  intro s hm
  have hnone := microstepCount_of_lt hm
  refine ⟨by simp only [exec, execGetMicrosteps, hnone], fun rpm hpos hlt => ?_⟩
  have hrpm : BitVec.ofNat 16 rpm ≠ 0#16 := by
    intro h0
    have hnat := congrArg BitVec.toNat h0
    rw [BitVec.toNat_ofNat, Nat.mod_eq_of_lt hlt, BitVec.toNat_ofNat] at hnat
    omega
  have hmres : ({ s with rpm := BitVec.ofNat 16 rpm } : State).mres = s.mres := rfl
  simp only [exec, execSetSpeed, if_neg hrpm, speedCompute, hmres, hnone]

end Sys2Proof.Machine

/-! ### Proofs for 40_frame_codec.md: frames and replies, the read port, EXCHANGE, RD_STATUS -/

namespace Sys2Proof.Machine

/-! ### Frames (R85, R86, R115) -/

/-- The three bytes of a frame, one after the other, are the value with four zeros above it: right-aligned (R85). -/
theorem encodeFrame_append (v : Reg) :
    (encodeFrame v).b0 ++ (encodeFrame v).b1 ++ (encodeFrame v).b2 = 0#4 ++ v := by
  have hhigh : (0#4 ++ v).extractLsb' 16 8 = 0#4 ++ v.extractLsb' 16 4 := by
    rw [extractLsb'_append_across (n := 4) (m := 4) 0#4 v rfl, BitVec.extractLsb'_eq_self]
  have hmid : (0#4 ++ v).extractLsb' 8 8 = v.extractLsb' 8 8 := BitVec.extractLsb'_append_eq_of_add_le (by decide)
  have hlow : (0#4 ++ v).extractLsb' 0 8 = v.extractLsb' 0 8 := BitVec.extractLsb'_append_eq_of_add_le (by decide)
  obtain ⟨h0, h1, h2⟩ := encodeFrame_bytes v
  calc (encodeFrame v).b0 ++ (encodeFrame v).b1 ++ (encodeFrame v).b2
      = (0#4 ++ v).extractLsb' 16 8 ++ (0#4 ++ v).extractLsb' 8 8 ++ (0#4 ++ v).extractLsb' 0 8 := by
        rw [h0, h1, h2, hhigh, hmid, hlow]
    _ = (0#4 ++ v).extractLsb' 8 16 ++ (0#4 ++ v).extractLsb' 0 8 := by
        rw [BitVec.extractLsb'_append_extractLsb'_eq_extractLsb' (by decide)]
    _ = 0#4 ++ v := BitVec.extractLsb'_append_extractLsb' (w := 16) (len := 8)

theorem encodeFrame_injective : Function.Injective encodeFrame := by
  intro v v' h
  have happ : 0#4 ++ v = 0#4 ++ v' := by rw [← encodeFrame_append, ← encodeFrame_append, h]
  simpa only [BitVec.extractLsb'_append_eq_right] using congrArg (BitVec.extractLsb' 0 20) happ

theorem encodeFrame_b0_lt (v : Reg) : (encodeFrame v).b0.toNat < 16 := by
  rw [(encodeFrame_bytes v).1, BitVec.toNat_append]
  simpa using (v.extractLsb' 16 4).isLt

/-- A reply whose 24 bits are a status above any low nibble decodes to the status (R86). -/
theorem decodeReply_leftAligned (st : Reg) (n : BitVec 4) :
    decodeReply (st.extractLsb' 12 8) (st.extractLsb' 4 8) (st.extractLsb' 0 4 ++ n) = st := by
  rw [decodeReply_eq_extractLsb']
  calc (st.extractLsb' 12 8 ++ st.extractLsb' 4 8 ++ (st.extractLsb' 0 4 ++ n)).extractLsb' 4 20
      = (st.extractLsb' 12 8 ++ st.extractLsb' 4 8).extractLsb' 0 16
          ++ (st.extractLsb' 0 4 ++ n).extractLsb' 4 4 := extractLsb'_append_across (n := 16) (m := 4) _ _ rfl
    _ = st.extractLsb' 4 16 ++ st.extractLsb' 0 4 := by
        rw [BitVec.extractLsb'_eq_self, BitVec.extractLsb'_append_eq_left,
          BitVec.extractLsb'_append_extractLsb'_eq_extractLsb' (by decide)]
    _ = st := BitVec.extractLsb'_append_extractLsb' (w := 16) (len := 4)

/-- A frame is right-aligned and a reply left-aligned: a loop-back loses the low nibble. -/
theorem decodeReply_encodeFrame (v : Reg) :
    decodeReply (encodeFrame v).b0 (encodeFrame v).b1 (encodeFrame v).b2 = v >>> 4 := by
  rw [decodeReply_eq_extractLsb', encodeFrame_append]
  calc (0#4 ++ v).extractLsb' 4 20
      = (0#4).extractLsb' 0 4 ++ v.extractLsb' 4 16 := extractLsb'_append_across (n := 4) (m := 16) 0#4 v rfl
    _ = 0#4 ++ v.extractLsb' 4 16 := by rw [BitVec.extractLsb'_eq_self]
    _ = v >>> 4 := (BitVec.ushiftRight_eq_extractLsb'_of_lt (by decide)).symm

/-- Settles O15, from the 24 bits of a frame and of a reply. -/
theorem frameRoundTripFacts : Obligations.FrameRoundTripFacts :=
  ⟨fun _ _ h => encodeFrame_injective h, encodeFrame_b0_lt, decodeReply_leftAligned, decodeReply_encodeFrame⟩

/-! ### The read port (R114, R190) -/

/-- The current readout is the low five bits of the readout value (R114). -/
theorem csReadout_eq_readoutValue (st : Reg) : csReadout st = (readoutValue st &&& 0x1F#10).setWidth 5 := by
  have hones : (0x1F#10).setWidth 5 = BitVec.allOnes 5 := by decide
  calc csReadout st = (readoutValue st).extractLsb' 0 5 :=
        (extractLsb'_extractLsb' (m := 10) (b := 0) (n := 5) st 10 (by decide)).symm
    _ = (readoutValue st).setWidth 5 := (BitVec.setWidth_eq_extractLsb' (by decide)).symm
    _ = (readoutValue st &&& 0x1F#10).setWidth 5 := by rw [BitVec.setWidth_and, hones, BitVec.and_allOnes]

/-- Settles O16: the port shows the fields themselves, and one entry per flag. -/
theorem readPortShowsTheDecodedStatus : Obligations.ReadPortShowsTheDecodedStatus :=
  fun s => ⟨fun _ => rfl, rfl, rfl, rfl, csReadout_eq_readoutValue s.status,
    fun f => List.mem_map.2 ⟨f, f.mem_all, rfl⟩⟩

/-! ### EXCHANGE and RD_STATUS (R111 to R113) -/

/-- EXCHANGE answers the decoded reply from the state its exchange leaves (R111). -/
theorem execExchange_completes {value : Nat} {s : State} (h : s.busAnswers 3 = true) :
    execExchange value s = respondOk ((afterExchange (BitVec.ofNat 20 value) s).status.setWidth 32)
      (afterExchange (BitVec.ofNat 20 value) s) := by
  rw [execExchange, exchange_completes h, andThen_next]

/-- EXCHANGE hangs where its exchange does, at the first transfer that is never answered (R113). -/
theorem execExchange_hangs (value : Nat) {s : State} (h : s.busAnswers 3 = false) :
    ∃ k < 3, s.busAnswer k = .hang ∧ (∀ j < k, s.busAnswer j ≠ .hang) ∧
      execExchange value s = .fault (.busHung (hungAfter (BitVec.ofNat 20 value) s k)) := by
  rcases exchange_cases (BitVec.ofNat 20 value) s with ⟨hall, -⟩ | ⟨-, k, hk, hhang, hfirst, he⟩
  · rw [hall] at h; cases h
  · exact ⟨k, hk, hhang, hfirst, by rw [execExchange, he, andThen_fault]⟩

/-- Settles O17: the state of a completed exchange, with the response. -/
theorem exchangeSendsTheValueAndReturnsTheReply : Obligations.ExchangeSendsTheValueAndReturnsTheReply := by
  intro value s _ h
  rw [bracket_eq_exchangeEvents]
  exact execExchange_completes h

/-- Settles O18: EXCHANGE completes with the three transfers of its exchange, or hangs with it. -/
theorem exchangeHangsWithSelectLow : Obligations.ExchangeHangsWithSelectLow := by
  refine fun value s => ⟨fun h => ⟨_, execExchange_completes h, rfl⟩, fun h => ?_⟩
  obtain ⟨k, hk, hhang, hfirst, he⟩ := execExchange_hangs value h
  refine ⟨k, hk, hhang, hfirst, ?_⟩
  rw [bracket_eq_exchangeEvents, ← hungAfter_eq _ s hk]
  exact he

/-- Settles O19: RD_STATUS is one response, with the cached status. -/
theorem rdStatusReturnsTheCachedStatus : Obligations.RdStatusReturnsTheCachedStatus :=
  fun s => respondOk_eq (s.status.setWidth 32) s

end Sys2Proof.Machine

/-! ### Proofs for 41_current_quantizer.md: the quantizer, the readback, the commands that write and read the current -/

namespace Sys2Proof

/-! ### The scaling and its clamp (R130, R131) -/

/-- A floored quotient as an inequality over the product `r * i`, the only way `scaling` reads its operands. -/
theorem le_scaling_iff {v : Nat} (hv : 0 < v) {r i : Nat} {k : Int} :
    k ≤ scaling v r i ↔ 1000 * (v : Int) * (2 * k + 1) ≤ 64 * ((r * i : Nat) : Int) := by
  rw [scaling, Int.le_ediv_iff_mul_le (by omega), Nat.cast_mul]
  constructor <;> intro h <;> linarith

/-- R131: clearing the fraction under the floor. -/
theorem floor_eq_scaling {v : Nat} (hv : 0 < v) (r i : Nat) :
    ⌊((r * i * 32 : ℕ) : ℚ) / (1000 * v) - 1 / 2⌋ = scaling v r i := by
  have hq : ((r * i * 32 : ℕ) : ℚ) / (1000 * v) - 1 / 2
      = ((64 * r * i - 1000 * v : ℤ) : ℚ) / ((2000 * v : ℕ) : ℚ) := by
    have : (v : ℚ) ≠ 0 := by positivity
    push_cast
    field_simp
    ring
  rw [hq, Rat.floor_intCast_div_natCast, scaling, Nat.cast_mul, Nat.cast_ofNat]

theorem scaling_mono {v : Nat} (hv : 0 < v) {r i r' i' : Nat} (h : r * i ≤ r' * i') :
    scaling v r i ≤ scaling v r' i' :=
  (le_scaling_iff hv).2 (((le_scaling_iff hv).1 le_rfl).trans (by omega))

theorem scaling_congr {v : Nat} (hv : 0 < v) {r i r' i' : Nat} (h : r * i = r' * i') :
    scaling v r i = scaling v r' i' :=
  (scaling_mono hv h.le).antisymm (scaling_mono hv h.ge)

theorem referenceMv_eq (v : BitVec 1) : referenceMv v = if v = 1#1 then 165 else 310 := rfl

theorem referenceMv_pos_le (v : BitVec 1) : 0 < referenceMv v ∧ referenceMv v ≤ 310 := by
  rw [referenceMv_eq]
  split <;> decide

theorem clampScaling_eq (x : Int) : clampScaling x = BitVec.ofInt 5 (max 0 (min 31 x)) := by
  unfold clampScaling
  split
  case isTrue => rw [max_eq_left (by omega)]; rfl
  case isFalse =>
    split
    case isTrue => rw [min_eq_left (by omega)]; rfl
    case isFalse => rw [min_eq_right (by omega), max_eq_right (by omega)]

theorem clampScaling_toNat (x : Int) : (clampScaling x).toNat = (max 0 (min 31 x)).toNat := by
  rw [clampScaling_eq, BitVec.toNat_ofInt]
  omega

theorem clampScaling_mono {x y : Int} (h : x ≤ y) : (clampScaling x).toNat ≤ (clampScaling y).toNat := by
  simp only [clampScaling_toNat]
  omega

/-! ### The quantizer on either side of the switch (R130, R137) -/

section
variable {r i r' i' : Nat}

/-- The switch point over the product. -/
theorem scaling_high_ge_iff : 16 ≤ scaling 310 r i ↔ 159844 ≤ r * i := by
  rw [le_scaling_iff (by decide)]
  omega

theorem quantize_of_scaling_lt (h : scaling 310 r i < 16) : quantize r i = (clampScaling (scaling 165 r i), 1#1) :=
  if_pos h

theorem quantize_of_scaling_ge (h : 16 ≤ scaling 310 r i) : quantize r i = (clampScaling (scaling 310 r i), 0#1) :=
  if_neg (not_lt.2 h)

theorem quantize_of_lt (h : r * i < 159844) : quantize r i = (clampScaling (scaling 165 r i), 1#1) :=
  quantize_of_scaling_lt (not_le.1 (mt scaling_high_ge_iff.1 (not_le.2 h)))

theorem quantize_of_ge (h : 159844 ≤ r * i) : quantize r i = (clampScaling (scaling 310 r i), 0#1) :=
  quantize_of_scaling_ge (scaling_high_ge_iff.2 h)

theorem quantize_high_iff : (quantize r i).2 = 0#1 ↔ 159844 ≤ r * i := by
  rcases lt_or_ge (r * i) 159844 with h | h
  · simp [quantize_of_lt h, h]
  · simp [quantize_of_ge h, h]

theorem quantize_low_iff : (quantize r i).2 = 1#1 ↔ r * i < 159844 := by
  rcases lt_or_ge (r * i) 159844 with h | h
  · simp [quantize_of_lt h, h]
  · simp [quantize_of_ge h, h]

/-- Whichever reference is chosen, the stored scaling is the clamped one of that reference. -/
theorem quantize_fst (r i : Nat) :
    (quantize r i).1 = clampScaling (scaling (referenceMv (quantize r i).2) r i) := by
  rcases lt_or_ge (r * i) 159844 with h | h
  · rw [quantize_of_lt h]; rfl
  · rw [quantize_of_ge h]; rfl

/-- Below the switch the upper clamp never acts (R137 item 2). -/
theorem scaling_low_le (h : r * i < 159844) : scaling 165 r i ≤ 30 := by
  by_contra hc
  have := (le_scaling_iff (by decide)).1 (not_le.1 hc : (31 : Int) ≤ _)
  omega

theorem quantize_eq_min (h : r * i < 7735) : quantize r i = (0#5, 1#1) := by
  have hs : ¬ 1 ≤ scaling 165 r i := by rw [le_scaling_iff (by decide)]; omega
  rw [quantize_of_lt (by omega), clampScaling_eq, max_eq_left (by omega)]
  rfl

theorem quantize_eq_max (h : 305157 ≤ r * i) : quantize r i = (31#5, 0#1) := by
  have hs : 31 ≤ scaling 310 r i := by rw [le_scaling_iff (by decide)]; omega
  rw [quantize_of_ge (by omega), clampScaling_eq, min_eq_left hs]
  rfl

theorem quantize_congr (h : r' * i' = r * i) : quantize r' i' = quantize r i := by
  simp only [quantize, scaling_congr (v := Config.vHigh) (by decide) h,
    scaling_congr (v := Config.vLow) (by decide) h]

theorem quantize_mono (h : r * i ≤ r' * i') (hv : (quantize r i).2 = (quantize r' i').2) :
    (quantize r i).1.toNat ≤ (quantize r' i').1.toNat := by
  rw [quantize_fst r i, quantize_fst r' i', hv]
  exact clampScaling_mono (scaling_mono (referenceMv_pos_le _).1 h)

end

/-- Settles O20: the two floors are `scaling` at either reference, and the test is the quantizer's own. -/
theorem quantizeIsTheFlooredFormula : Obligations.QuantizeIsTheFlooredFormula := by
  intro r i s310 s165
  have h310 : s310 = scaling 310 r i := by rw [← floor_eq_scaling (by decide)]; norm_num [s310]
  have h165 : s165 = scaling 165 r i := by rw [← floor_eq_scaling (by decide)]; norm_num [s165]
  rw [h310, h165, ← clampScaling_eq, ← clampScaling_eq]
  exact ⟨rfl, rfl, quantize_of_scaling_lt, quantize_of_scaling_ge⟩

/-- Settles O21: each fact is one of the quantizer's lemmas; the examples at the switch are computed. -/
theorem quantizeSwitchPoint : Obligations.QuantizeSwitchPoint := by
  refine ⟨fun r i => ⟨quantize_high_iff, fun hv => scaling_low_le (quantize_low_iff.1 hv), fun hv => ?_,
    quantize_eq_min, quantize_eq_max, fun _ _ => quantize_congr, fun _ _ => quantize_mono⟩, ?_⟩
  · exact (quantize_low_or_ge r i).resolve_left (by rw [hv]; decide)
  · decide

/-! ### The readback (R133, R136) -/

theorem readbackMa_le {r : Nat} (hr : 1 ≤ r) (cs : BitVec 5) (v : BitVec 1) : readbackMa r cs v ≤ 310000 := by
  have hcs : cs.toNat + 1 ≤ 32 := cs.isLt
  calc (cs.toNat + 1) * referenceMv v * 1000 / (32 * r)
      ≤ 32 * 310 * 1000 / (32 * 1) :=
        Nat.div_le_div (by gcongr; exact (referenceMv_pos_le v).2) (by omega) (by decide)
    _ = 310000 := by decide

/-- R136: an unclamped scaling `n` reads back within half a step of the current it came from (both sides times
`64 * r`). The quantizer's floor and the readback's floor each give their two bounds on `2000 * v * (n + 1)`. -/
theorem readback_near {v r i n : Nat} (hv : 0 < v) (hr : 1 ≤ r) (hn : scaling v r i = n) :
    64 * r * ((n + 1) * v * 1000 / (32 * r)) ≤ 64 * r * i + 1000 * v ∧
    64 * r * i < 64 * r * ((n + 1) * v * 1000 / (32 * r) + 1) + 1000 * v := by
  have hlow := (le_scaling_iff hv).1 hn.ge
  have hhigh := mt (le_scaling_iff hv).2 (show ¬ ((n : Int) + 1 ≤ scaling v r i) by omega)
  have hg := Nat.div_mul_le_self ((n + 1) * v * 1000) (32 * r)
  have hg1 := Nat.lt_div_mul_add (a := (n + 1) * v * 1000) (b := 32 * r) (by omega)
  generalize (n + 1) * v * 1000 / (32 * r) = g at hg hg1 ⊢
  push_cast at hlow hhigh
  zify at hg hg1 ⊢
  constructor <;> linarith

end Sys2Proof

namespace Sys2Proof.Machine

/-! ### Two exchanges, one after the other (R132) -/

theorem exchange_hangs (v : Reg) {s : State} (h : s.busAnswers 3 = false) :
    ∃ k < 3, s.busAnswer k = .hang ∧ (∀ j < k, s.busAnswer j ≠ .hang) ∧
      exchange v s = .fault (.busHung (hungAfter v s k)) := by
  rcases exchange_cases v s with ⟨hall, -⟩ | ⟨-, hhang⟩
  · rw [hall] at h; cases h
  · exact hhang

theorem afterExchange_afterExchange (v w : Reg) (s : State) :
    afterExchange w (afterExchange v s) =
      { s with
        status := decodeReply (s.replyByte 3) (s.replyByte 4) (s.replyByte 5)
        csN := true
        bus := s.bus.drop 6
        busTransfers := s.busTransfers + 6
        trace := s.trace ++ exchangeEvents v (s.replyByte 0) (s.replyByte 1) (s.replyByte 2)
          ++ exchangeEvents w (s.replyByte 3) (s.replyByte 4) (s.replyByte 5) } := by
  rw [afterExchange]
  simp only [replyByte_afterExchange]
  simp [afterExchange]

theorem hungAfter_afterExchange (v w : Reg) (s : State) {k : Nat} (hk : k < 3) :
    hungAfter w (afterExchange v s) k =
      { s with
        status := decodeReply (s.replyByte 0) (s.replyByte 1) (s.replyByte 2)
        csN := false
        bus := s.bus.drop (k + 3)
        busTransfers := s.busTransfers + (k + 3)
        trace := s.trace ++ exchangeEvents v (s.replyByte 0) (s.replyByte 1) (s.replyByte 2)
          ++ (exchangeEvents w (s.replyByte 3) (s.replyByte 4) (s.replyByte 5)).take (k + 1) } := by
  rw [hungAfter_eq _ _ hk]
  simp only [replyByte_afterExchange]
  simp only [afterExchange, List.drop_drop, Nat.add_assoc, Nat.add_comm 3 k]

/-! ### SET_CURRENT (R132) -/

section
variable {mA : Nat} {s : State}

theorem execSetCurrent_unstarted (hs : s.started = false) :
    execSetCurrent mA s = respondOk 0#32 (currentSet mA s) := by simp [execSetCurrent, hs]

theorem execSetCurrent_started (hs : s.started = true) :
    execSetCurrent mA s = andThen (exchange (currentSet mA s).regs.drv (currentSet mA s)) fun s2 =>
      andThen (exchange s2.regs.cur s2) fun s3 => respondOk 0#32 s3 := by simp [execSetCurrent, hs]

/-- The state between the two exchanges: DRV sent, CUR to be sent. -/
abbrev drvSent (mA : Nat) (s : State) : State := afterExchange (currentSet mA s).regs.drv (currentSet mA s)

theorem busAnswers_drvSent (h : s.busAnswers 3 = true) : (drvSent mA s).busAnswers 3 = s.busAnswers 6 := by
  rw [Bool.eq_iff_iff, busAnswers_six, and_iff_right h]
  simp [busAnswers_three]

theorem execSetCurrent_completes (hs : s.started = true) (h : s.busAnswers 6 = true) :
    execSetCurrent mA s = respondOk 0#32 (afterExchange (currentSet mA s).regs.cur (drvSent mA s)) := by
  have h3 : s.busAnswers 3 = true := ((busAnswers_six s).1 h).1
  rw [execSetCurrent_started hs, exchange_completes (s := currentSet mA s) h3, andThen_next,
    exchange_completes (by rw [busAnswers_drvSent h3, h]), andThen_next]
  rfl

theorem execSetCurrent_hangs_first (hs : s.started = true) (h : s.busAnswers 3 = false) :
    ∃ k < 3, s.busAnswer k = .hang ∧ (∀ j < k, s.busAnswer j ≠ .hang) ∧
      execSetCurrent mA s = .fault (.busHung (hungAfter (currentSet mA s).regs.drv (currentSet mA s) k)) := by
  obtain ⟨k, hk, hhang, hfirst, he⟩ := exchange_hangs (s := currentSet mA s) (currentSet mA s).regs.drv h
  exact ⟨k, hk, hhang, hfirst, by rw [execSetCurrent_started hs, he, andThen_fault]⟩

theorem execSetCurrent_hangs_second (hs : s.started = true) (h3 : s.busAnswers 3 = true)
    (h6 : s.busAnswers 6 = false) :
    ∃ k < 3, s.busAnswer (k + 3) = .hang ∧ (∀ j < k, s.busAnswer (j + 3) ≠ .hang) ∧
      execSetCurrent mA s = .fault (.busHung (hungAfter (currentSet mA s).regs.cur (drvSent mA s) k)) := by
  obtain ⟨k, hk, hhang, hfirst, he⟩ :=
    exchange_hangs (s := drvSent mA s) (currentSet mA s).regs.cur (by rw [busAnswers_drvSent h3, h6])
  simp only [busAnswer_afterExchange] at hhang hfirst
  refine ⟨k, hk, hhang, hfirst, ?_⟩
  rw [execSetCurrent_started hs, exchange_completes (s := currentSet mA s) h3, andThen_next]
  exact congrArg (andThen · _) he

end

/-- Settles O22: not started, started, and a hang in either exchange, each with the state its exchanges leave. -/
theorem setCurrentWritesAndSendsBothFields : Obligations.SetCurrentWritesAndSendsBothFields := by
  intro mA s _ q drv cur
  simp only [bracket_eq_exchangeEvents]
  refine ⟨execSetCurrent_unstarted, fun hs h6 => ?_, fun hs h3 => ?_, fun hs h3 h6 => ?_⟩
  · refine (execSetCurrent_completes hs h6).trans ?_
    rw [afterExchange_afterExchange]
    rfl
  · obtain ⟨k, hk, hhang, hfirst, he⟩ := execSetCurrent_hangs_first (mA := mA) hs h3
    rw [hungAfter_eq _ _ hk] at he
    exact ⟨k, hk, hhang, hfirst, he⟩
  · obtain ⟨k, hk, hhang, hfirst, he⟩ := execSetCurrent_hangs_second (mA := mA) hs h3 h6
    rw [hungAfter_afterExchange _ _ _ hk] at he
    exact ⟨k, hk, hhang, hfirst, he⟩

/-! ### The reads (R133 to R135) -/

theorem execGetCurrent_eq {s : State} (h : 1 ≤ s.cfg.rSense) :
    execGetCurrent s = respondOk (BitVec.ofNat 32 (readbackMa s.cfg.rSense s.cs s.vsense)) s := if_neg (by omega)

/-- Settles O23: the readback of the stored fields, and its bound. -/
theorem getCurrentReadsTheStoredFieldsBack : Obligations.GetCurrentReadsTheStoredFieldsBack :=
  fun s h => ⟨readbackMa_le h s.cs s.vsense, execGetCurrent_eq h⟩

theorem setWidth_bit (v : BitVec 1) : v.setWidth 32 = if v = 1#1 then 1#32 else 0#32 := by
  rcases BitVec.eq_zero_or_eq_one v with rfl | rfl <;> rfl

/-- Settles O25: one response each; the stored bit read at 32 bits. -/
theorem referenceAndResistorReads : Obligations.ReferenceAndResistorReads :=
  fun s => ⟨by rw [← setWidth_bit]; rfl, rfl⟩

/-! ### The pair stored: who writes it (R136, R137, R138) -/

section
variable {s t : State}

/-- SET_CURRENT stores the quantized pair. -/
theorem setCurrent_stores {mA : Nat} (hl : s.cfg.legal = true) (h : exec (.setCurrent mA) s = .next t) :
    t.cs = (quantize s.cfg.rSense mA).1 ∧ t.vsense = (quantize s.cfg.rSense mA).2 := by
  have hcs : (currentSet mA s).cs = (quantize s.cfg.rSense mA).1 := setCs_cs (s := s.setVsense _) hl _
  have hvs : (currentSet mA s).vsense = (quantize s.cfg.rSense mA).2 := setVsense_vsense hl _
  rcases execSetCurrent_eq_next h with ⟨-, rfl⟩ | ⟨-, -, rfl⟩ <;> exact ⟨hcs, hvs⟩

/-- Every other command leaves the pair alone. -/
theorem exec_next_currentPair {i : Instr} (hi : ∀ mA, i ≠ .setCurrent mA) (h : exec i s = .next t) :
    t.cs = s.cs ∧ t.vsense = s.vsense := by
  obtain ⟨-, -, -, -, hkept⟩ := exec_next_writesOwnedOnly h
  obtain ⟨hcur, hdrv⟩ := hkept hi
  exact ⟨by rw [State.cs, exec_next_cfg h, hcur, State.cs], by rw [State.vsense, exec_next_cfg h, hdrv, State.vsense]⟩

theorem exec_next_scalingProduced {i : Instr} (hl : s.cfg.legal = true) (hp : s.scalingProduced = true)
    (h : exec i s = .next t) : t.scalingProduced = true := by
  rw [scalingProduced_iff] at hp ⊢
  by_cases hi : ∃ mA, i = .setCurrent mA
  · obtain ⟨mA, rfl⟩ := hi
    obtain ⟨hcs, hvs⟩ := setCurrent_stores hl h
    rw [hcs, hvs]
    exact quantize_low_or_ge _ _
  · obtain ⟨hcs, hvs⟩ := exec_next_currentPair (fun mA he => hi ⟨mA, he⟩) h
    rwa [hcs, hvs]

/-- An update within the host's duties touches no bit of `cs` or `vsense` (44_host_register_clients.md R191). -/
theorem hostUpdate_currentPair {k : RegName} {mask : Reg} (hm : hostMaskLegal s.cfg k mask = true) (bits : Reg)
    (ht : t = { s with regs := s.regs.set k (hostMerge (s.regs.get k) mask bits) }) :
    t.cs = s.cs ∧ t.vsense = s.vsense := by
  simp only [hostMaskLegal, Bool.and_eq_true, beq_iff_eq] at hm
  obtain ⟨-, hown⟩ := hm
  subst ht
  cases k
  case cur => exact ⟨getField_merge s.regs.cur mask bits hown, rfl⟩
  case drv => exact ⟨rfl, getField_merge s.regs.drv mask bits hown⟩
  all_goals exact ⟨rfl, rfl⟩

theorem afterReset_scalingProduced (hl : s.cfg.legal = true) (es : List Event) (n : Nat) :
    (afterReset s es n).scalingProduced = true :=
  (everyLegalResetMeetsTheInvariants s.cfg hl).2

end

/-- Settles O48: SET_CURRENT and `rst` store a pair of the quantizer, no other step changes the pair. -/
theorem everyStepKeepsTheScalingProduced : Obligations.EveryStepKeepsTheScalingProduced := by
  intro s t _ hp h
  obtain ⟨hl, h⟩ := step_eq_next h
  rcases h with ⟨-, rfl⟩ | ⟨w, rest, i, -, -, hx⟩ | ⟨k, mask, bits, rest, -, hm, rfl⟩ |
    ⟨now, rest, -, rfl⟩ | ⟨rest, -, hr⟩ | ⟨w, n, rest, i, -, -, hc⟩
  · exact hp
  · exact exec_next_scalingProduced (s := { s with host := rest }) hl hp hx
  · rw [scalingProduced_iff] at hp ⊢
    obtain ⟨hcs, hvs⟩ := hostUpdate_currentPair (s := { s with host := rest }) hm bits rfl
    rw [hcs, hvs]
    exact hp
  · exact hp
  · rw [takeReset_eq] at hr
    cases hr
    exact afterReset_scalingProduced (s := { s with host := rest }) hl _ _
  · obtain ⟨ev, a, -, rfl⟩ := cutByReset_eq_next hc
    exact afterReset_scalingProduced (s := { s with host := rest }) hl _ _

/-- Settles O24: SET_CURRENT stores the unclamped scaling, and `readback_near` bounds what GET_CURRENT makes of it. -/
theorem readbackWithinHalfAStep : Obligations.ReadbackWithinHalfAStep := by
  intro mA s t u hl _ hset hget v h0 h31
  obtain ⟨hcs, hvs⟩ := setCurrent_stores hl hset
  have hr : 1 ≤ s.cfg.rSense := (Config.legal_divisors_pos hl).2
  have hcfg : t.cfg = s.cfg := exec_next_cfg hset
  have hread : exec .getCurrent t = _ := execGetCurrent_eq (hcfg ▸ hr)
  have hn : scaling v s.cfg.rSense mA = t.cs.toNat := by
    have hv : referenceMv t.vsense = v := rfl
    rw [hcs, quantize_fst, ← hvs, hv, clampScaling_toNat]
    omega
  rw [hread, hcfg] at hget
  cases hget
  exact ⟨readbackMa s.cfg.rSense t.cs t.vsense, (readbackMa_le hr _ _).trans_lt (by decide), rfl,
    readback_near (referenceMv_pos_le t.vsense).1 hr hn⟩

end Sys2Proof.Machine

/-! ### Proofs for 42_step_scheduler.md: STEP, MOVE and STOP, the step delay, microsteps, polling -/

namespace Sys2Proof

/-! ### The microstep rounding (R156) and its code (30_encoding.md R88) -/

theorem microstepRound_of_le_one {q : Int} (h : q ≤ 1) : microstepRound q = 1 := if_pos h

theorem microstepRound_of_ge {q : Int} (h : 256 ≤ q) : microstepRound q = 256 := by
  rw [microstepRound, if_neg (by omega), if_pos h]

theorem microstepRound_between {q : Int} (h1 : 1 < q) (h256 : q < 256) : microstepRound q = 2 ^ Nat.log2 q.toNat := by
  rw [microstepRound, if_neg (by omega), if_neg (by omega)]

/-- The rounded count is one of the nine powers of two from 1 to 256. -/
theorem exists_microstepRound_eq_two_pow (q : Int) : ∃ k ≤ 8, microstepRound q = 2 ^ k := by
  by_cases h1 : q ≤ 1
  · exact ⟨0, by omega, microstepRound_of_le_one h1⟩
  · by_cases h256 : 256 ≤ q
    · exact ⟨8, le_rfl, microstepRound_of_ge h256⟩
    · have hlog : Nat.log2 q.toNat < 8 := (Nat.log2_lt (by omega)).2 (by omega)
      exact ⟨_, hlog.le, microstepRound_between (by omega) (by omega)⟩

theorem microstepCode_two_pow (k : Nat) : microstepCode (2 ^ k) = BitVec.ofNat 4 (8 - k) := by
  rw [microstepCode, Nat.log2_two_pow]

/-- The stored code stands for the rounded count. -/
theorem two_pow_microstepCode (q : Int) : 2 ^ (8 - (microstepCode (microstepRound q)).toNat) = microstepRound q := by
  obtain ⟨k, hk, hq⟩ := exists_microstepRound_eq_two_pow q
  have hcode : (BitVec.ofNat 4 (8 - k)).toNat = 8 - k := by
    rw [BitVec.toNat_ofNat]
    omega
  rw [hq, microstepCode_two_pow, hcode, Nat.sub_sub_self hk]

/-- Settles O31: between 2 and 255 the power is read off the binary logarithm. -/
theorem microstepRoundingTable : Obligations.MicrostepRoundingTable := by
  refine fun q => ⟨fun h => ?_, fun h => ?_, fun k hk1 hk7 hlo hhi => ?_⟩
  · rw [microstepRound_of_le_one h]
    decide
  · rw [microstepRound_of_ge h]
    decide
  · have h2 : 2 ^ 1 ≤ 2 ^ k := Nat.pow_le_pow_right (by omega) hk1
    have h256 : 2 ^ (k + 1) ≤ 2 ^ 8 := Nat.pow_le_pow_right (by omega) (by omega)
    lift q to ℕ using (by positivity : (0 : Int) ≤ 2 ^ k).trans hlo
    norm_cast at hlo hhi
    have hlog : Nat.log2 q = k := (Nat.log2_eq_iff (by omega)).2 ⟨hlo, hhi⟩
    have hround : microstepRound q = 2 ^ k := by
      rw [microstepRound_between (by omega) (by omega), Int.toNat_natCast, hlog]
    rw [hround, microstepCode_two_pow]
    exact ⟨rfl, rfl⟩

end Sys2Proof

namespace Sys2Proof.Machine

/-! ### STEP, STOP and the reads (R151, R153, R158 to R160) -/

theorem moving_eq_false_iff (s : State) : s.moving = false ↔ s.stepsLeft = 0#32 := by
  rw [← Bool.not_eq_true, moving_iff, not_not]

theorem execStep_idle {s : State} (h : s.moving = false) (n : Int) :
    execStep n s = respondOk 0#32
      { s with stepsLeft := BitVec.ofNat 32 n.natAbs, direction := stepDirection n s.direction } := by
  rw [execStep, h]
  rfl

theorem execStep_moving {s : State} (h : s.moving = true) (n : Int) :
    execStep n s = .next (s.respondWith ⟨.busy, 0#32⟩) := by
  rw [execStep, if_pos h, raise_busy]

/-- Settles O26: Idle and Moving are the two branches of STEP; a 32-bit count has its absolute value below 2^32. -/
theorem stepStoresCountAndSignOrAnswersBusy : Obligations.StepStoresCountAndSignOrAnswersBusy := by
  refine fun n s hlo hhi => ⟨?_, fun h => execStep_idle ((moving_eq_false_iff s).2 h) n,
    fun h => execStep_moving ((moving_iff s).2 h) n⟩
  rw [BitVec.toNat_ofNat, Nat.mod_eq_of_lt (by omega)]

theorem boolData_moving (s : State) : boolData s.moving = if s.stepsLeft = 0#32 then 0#32 else 1#32 := by
  by_cases h : s.stepsLeft = 0#32
  · rw [if_pos h, (moving_eq_false_iff s).2 h]
    rfl
  · rw [if_neg h, (moving_iff s).2 h]
    rfl

/-- Settles O28: STOP answers from the state it found. -/
theorem stopAbandonsTheMove : Obligations.StopAbandonsTheMove := by
  intro s
  rw [← boolData_moving]
  rfl

theorem execGetMicrosteps_of_le {s : State} (h : s.mres.toNat ≤ 8) :
    execGetMicrosteps s = respondOk (BitVec.ofNat 32 (2 ^ (8 - s.mres.toNat))) s := by
  rw [execGetMicrosteps, microstepCount_of_le h]

/-- Settles O34: one response each. -/
theorem schedulerReads : Obligations.SchedulerReads :=
  fun s => ⟨by rw [← boolData_moving]; rfl, rfl, execGetMicrosteps_of_le⟩

/-! ### MOVE (R152) -/

theorem pulsed_eq (s : State) :
    pulsed s = { s with
      trace := s.trace ++ pulseEvents s.direction
      stepPin := false
      dirPin := s.direction == .forward && s.dirPin
      stepsLeft := s.stepsLeft - 1#32
      lastStepTime := s.timeUs
      nextStepTime := s.timeUs + s.stepDelay } := by
  rw [pulsed, pulsePins_eq]
  rfl

theorem execMove_due {s : State} (h : pulseDue s.now s = true) : execMove s = respondOk 0#32 (pulsed s) := if_pos h

theorem execMove_notDue {s : State} (h : ¬ pulseDue s.now s = true) : execMove s = respondOk 0#32 s := if_neg h

theorem toNat_sub_one {n : Word} (h : n ≠ 0#32) : (n - 1#32).toNat = n.toNat - 1 := by bv_omega

/-- Settles O27: the readiness test over the integers is `pulseDue_iff`; each direction has its own events and pins. -/
theorem moveEmitsOnePulseWhenDue : Obligations.MoveEmitsOnePulseWhenDue := by
  intro s due
  have hdue : pulseDue s.now s = true ↔ due := pulseDue_iff s
  have hnext : s.timeUs + s.stepDelay = BitVec.ofNat 32 (s.timeUs.toNat + s.stepDelay.toNat) :=
    BitVec.add_def ..
  have hleft (h : due) : s.stepsLeft - 1#32 = BitVec.ofNat 32 (s.stepsLeft.toNat - 1) := by
    rw [← toNat_sub_one h.1, BitVec.ofNat_toNat, BitVec.setWidth_eq]
  refine ⟨fun h => execMove_notDue (mt hdue.1 h), fun h hdir => (execMove_due (hdue.2 h)).trans ?_,
    fun h hdir => (execMove_due (hdue.2 h)).trans ?_⟩
  · rw [pulsed_eq, hdir, hnext, hleft h]
    rfl
  · rw [pulsed_eq, hdir, hnext, hleft h]
    rfl

/-! ### The step delay (R154, R155) -/

theorem speedCompute_of_ne_zero {r : Half} {s : State} (hm : s.mres.toNat ≤ 8)
    (hp : s.cfg.stepsPerRev * r.toNat * 2 ^ (8 - s.mres.toNat) ≠ 0) :
    speedCompute r s = respondOk 0#32
      { s with stepDelay := BitVec.ofNat 32 (60000000 / (s.cfg.stepsPerRev * r.toNat * 2 ^ (8 - s.mres.toNat))) } := by
  rcases speedCompute_cases hm with ⟨-, he⟩ | ⟨h0, -⟩
  · exact he
  · exact absurd h0 hp

theorem speedCompute_zero {s : State} (hm : s.mres.toNat ≤ 8) : speedCompute 0#16 s = raise .divideByZero s := by
  rcases speedCompute_cases (r := 0#16) hm with ⟨hp, -⟩ | ⟨-, he⟩
  · exact absurd (by simp) hp
  · exact he

/-- Settles O30: the test on the operand comes before any write. -/
theorem setSpeedZeroAnswersFault : Obligations.SetSpeedZeroAnswersFault := fun s => raise_divideByZero s

/-- Settles O29: an operand of 1 to 65535 is its own 16-bit value, so the product is positive. -/
theorem setSpeedStoresSpeedAndDelay : Obligations.SetSpeedStoresSpeedAndDelay := by
  intro rpm s h1 h16 hsteps hm delay
  have hrpm : (BitVec.ofNat 16 rpm).toNat = rpm := by rw [BitVec.toNat_ofNat, Nat.mod_eq_of_lt h16]
  have hne : BitVec.ofNat 16 rpm ≠ 0#16 := by
    intro h0
    rw [h0, BitVec.toNat_ofNat] at hrpm
    omega
  have hp : s.cfg.stepsPerRev * rpm * 2 ^ (8 - s.mres.toNat) ≠ 0 := by positivity
  have hcompute := speedCompute_of_ne_zero (r := BitVec.ofNat 16 rpm) (s := { s with rpm := BitVec.ofNat 16 rpm }) hm
    (by rw [hrpm]; exact hp)
  rw [hrpm] at hcompute
  exact ⟨Nat.div_le_self _ _, (if_neg hne).trans hcompute⟩

/-! ### SET_MICROSTEPS (R157) -/

section
variable {q : Int} {s s' : State}

theorem execSetMicrosteps_unstarted (hs : s.started = false) :
    execSetMicrosteps q s = speedCompute s.rpm (microstepsSet q s) := by simp [execSetMicrosteps, hs]

/-- The state after the exchange of a started SET_MICROSTEPS: the code stored and MSC sent. -/
abbrev mscSent (q : Int) (s : State) : State := afterExchange (microstepsSet q s).regs.msc (microstepsSet q s)

theorem execSetMicrosteps_started (hs : s.started = true) :
    execSetMicrosteps q s = andThen (exchange (microstepsSet q s).regs.msc (microstepsSet q s)) fun s2 =>
      speedCompute s2.rpm s2 := by simp [execSetMicrosteps, hs]

theorem execSetMicrosteps_sends (hs : s.started = true) (h3 : s.busAnswers 3 = true) :
    execSetMicrosteps q s = speedCompute s.rpm (mscSent q s) := by
  rw [execSetMicrosteps_started hs, exchange_completes (s := microstepsSet q s) h3, andThen_next]
  rfl

theorem execSetMicrosteps_hangs (hs : s.started = true) (h3 : s.busAnswers 3 = false) :
    ∃ k < 3, s.busAnswer k = .hang ∧ (∀ j < k, s.busAnswer j ≠ .hang) ∧
      execSetMicrosteps q s = .fault (.busHung (hungAfter (microstepsSet q s).regs.msc (microstepsSet q s) k)) := by
  obtain ⟨k, hk, hhang, hfirst, he⟩ := exchange_hangs (s := microstepsSet q s) (microstepsSet q s).regs.msc h3
  exact ⟨k, hk, hhang, hfirst, by rw [execSetMicrosteps_started hs, he, andThen_fault]⟩

/-- The code read back is the code stored, wherever the field lies inside the register (30_encoding.md R90). -/
theorem microstepsSet_mres (hpos : s.cfg.posMres ≤ 16) :
    (microstepsSet q s).mres = microstepCode (microstepRound q) :=
  getField_setField _ _ (Nat.add_le_add_right hpos 4)

theorem microstepsSent_mres (hpos : s.cfg.posMres ≤ 16) (h : microstepsSent q s s') :
    s'.mres = microstepCode (microstepRound q) := by
  rw [← microstepsSet_mres hpos, State.mres, State.mres, microstepsSent_regs h, microstepsSent_cfg h]
  rfl

/-- With a stored speed, sent or not, the delay follows from the rounded count. -/
theorem microstepsSent_speedCompute (hpos : s.cfg.posMres ≤ 16) (hsteps : 1 ≤ s.cfg.stepsPerRev) (hrpm : s.rpm ≠ 0#16)
    (h : microstepsSent q s s') :
    speedCompute s.rpm s' = respondOk 0#32
      { s' with stepDelay := BitVec.ofNat 32 (60000000 / (s.cfg.stepsPerRev * s.rpm.toNat * microstepRound q)) } := by
  have hmres := microstepsSent_mres hpos h
  have hcount : 2 ^ (8 - s'.mres.toNat) = microstepRound q := by rw [hmres, two_pow_microstepCode]
  have hp : s'.cfg.stepsPerRev * s.rpm.toNat * 2 ^ (8 - s'.mres.toNat) ≠ 0 := by
    have hrpos : 0 < s.rpm.toNat := BitVec.toNat_pos_of_ne_zero hrpm
    rw [microstepsSent_cfg h]
    positivity
  rw [speedCompute_of_ne_zero (hmres ▸ microstepCode_le _) hp, hcount, microstepsSent_cfg h]

theorem microstepsSent_speedCompute_zero (hpos : s.cfg.posMres ≤ 16) (hrpm : s.rpm = 0#16)
    (h : microstepsSent q s s') : speedCompute s.rpm s' = raise .divideByZero s' := by
  rw [hrpm, speedCompute_zero (microstepsSent_mres hpos h ▸ microstepCode_le _)]

end

/-- Settles O32: the delay computed from the state that stores the code, or stores and sends it. -/
theorem setMicrostepsStoresSendsAndRecomputes : Obligations.SetMicrostepsStoresSendsAndRecomputes := by
  intro q s _ _ hpos hsteps hrpm m msc delay
  simp only [bracket_eq_exchangeEvents]
  exact ⟨fun hs => (execSetMicrosteps_unstarted hs).trans
      (microstepsSent_speedCompute hpos hsteps hrpm (.inl ⟨hs, rfl⟩)),
    fun hs h3 => (execSetMicrosteps_sends hs h3).trans
      (microstepsSent_speedCompute hpos hsteps hrpm (.inr ⟨hs, rfl⟩))⟩

/-- Settles O33: the computation raises DivideByZero after the code is stored, or stored and sent. -/
theorem setMicrostepsWithZeroSpeedKeepsTheCode : Obligations.SetMicrostepsWithZeroSpeedKeepsTheCode := by
  intro q s _ _ hpos hrpm msc
  simp only [bracket_eq_exchangeEvents]
  refine ⟨fun hs => ?_, fun hs h3 => ?_⟩
  · exact (execSetMicrosteps_unstarted hs).trans <|
      (microstepsSent_speedCompute_zero hpos hrpm (.inl ⟨hs, rfl⟩)).trans (raise_divideByZero _)
  · exact (execSetMicrosteps_sends hs h3).trans <|
      (microstepsSent_speedCompute_zero hpos hrpm (.inr ⟨hs, rfl⟩)).trans (raise_divideByZero _)

/-- Settles O56: the hung exchange is one of the state that stores the code. -/
theorem setMicrostepsHangsWithTheCodeStored : Obligations.SetMicrostepsHangsWithTheCodeStored := by
  intro q s hs h3 msc
  simp only [bracket_eq_exchangeEvents]
  obtain ⟨k, hk, hhang, hfirst, he⟩ := execSetMicrosteps_hangs (q := q) hs h3
  rw [hungAfter_eq _ _ hk] at he
  exact ⟨k, hk, hhang, hfirst, he⟩

/-- Settles O36: after every completion, a DivideByZero among them, MSC holds the code of the rounded count. -/
theorem microstepsReadBackRounded : Obligations.MicrostepsReadBackRounded := by
  intro q s t hpos h
  have hmres : t.mres = microstepCode (microstepRound q) := by
    rw [← microstepsSet_mres hpos, State.mres, exec_next_cfg h, execSetMicrosteps_next_regs h]
    rfl
  have hread := execGetMicrosteps_of_le (hmres ▸ microstepCode_le _)
  rw [hmres, two_pow_microstepCode] at hread
  exact hread

/-! ### Pulses and the count (R161) -/

theorem pulses_pulsed (s : State) : pulses (pulsed s).trace = pulses s.trace + 1 := by
  rw [pulsed_eq, pulses_append, pulses_pulseEvents]

theorem microstepsSent_pulses {q : Int} {s s' : State} (h : microstepsSent q s s') :
    pulses s'.trace = pulses s.trace ∧ s'.stepsLeft = s.stepsLeft := by
  rcases h with ⟨-, rfl⟩ | ⟨-, rfl⟩
  · exact ⟨rfl, rfl⟩
  · exact ⟨pulses_afterExchange _ _, rfl⟩

/-- What the balance asks of one command. -/
def balancesPulses (i : Instr) (s t : State) : Prop :=
  pulses t.trace ≤ pulses s.trace + 1 ∧ (i ≠ .move → pulses t.trace = pulses s.trace) ∧
  ((∀ n, i ≠ .step n) → i ≠ .stop →
    pulses t.trace + t.stepsLeft.toNat = pulses s.trace + s.stepsLeft.toNat)

theorem balancesPulses_of_kept {i : Instr} {s t : State} (hp : pulses t.trace = pulses s.trace)
    (hc : (∀ n, i ≠ .step n) → i ≠ .stop → t.stepsLeft = s.stepsLeft) : balancesPulses i s t :=
  ⟨by omega, fun _ => hp, fun hstep hstop => by rw [hp, hc hstep hstop]⟩

/-- A pulse is made only while Moving, so the count it pays is there. -/
theorem balancesPulses_pulsed {s t : State} (h : pulseDue s.now s = true) (htrace : t.trace = (pulsed s).trace)
    (hleft : t.stepsLeft = s.stepsLeft - 1#32) : balancesPulses .move s t := by
  have hne : s.stepsLeft ≠ 0#32 := ((pulseDue_iff s).1 h).1
  have hpulse : pulses t.trace = pulses s.trace + 1 := by rw [htrace, pulses_pulsed]
  have hpaid : t.stepsLeft.toNat = s.stepsLeft.toNat - 1 := by rw [hleft, toNat_sub_one hne]
  have hpos : 0 < s.stepsLeft.toNat := BitVec.toNat_pos_of_ne_zero hne
  exact ⟨by omega, fun hi => absurd rfl hi, fun _ _ => by omega⟩

theorem exec_next_balancesPulses : ∀ i s t, exec i s = .next t → balancesPulses i s t := by
  apply exec_next_elim
  case exchanged => exact fun v s d => balancesPulses_of_kept (pulses_afterExchange _ s) fun _ _ => rfl
  case currentSent =>
    exact fun mA s _ => balancesPulses_of_kept ((pulses_afterExchange _ _).trans (pulses_afterExchange _ _))
      fun _ _ => rfl
  case stepped => exact fun n s _ => balancesPulses_of_kept rfl fun hn => absurd rfl (hn n)
  case moved => exact fun s hd => balancesPulses_pulsed hd rfl rfl
  case stopped => exact fun s d => balancesPulses_of_kept rfl fun _ hs => absurd rfl hs
  case microstepped =>
    intro q s s' hs
    obtain ⟨hp, hc⟩ := microstepsSent_pulses hs
    exact ⟨fun _ => balancesPulses_of_kept hp fun _ _ => hc, balancesPulses_of_kept hp fun _ _ => hc⟩
  all_goals intros; exact balancesPulses_of_kept rfl fun _ _ => rfl

/-- Settles O43: MOVE's pulse pays one count; every other form of `exec_next_elim` keeps both, but for the count that
STEP and STOP write. -/
theorem pulsesAndCountBalance : Obligations.PulsesAndCountBalance := exec_next_balancesPulses

/-! ### Polling (R161, R162) -/

/-- What one poll at time `now` leaves, seen from a state whose cadence suffices while it is Moving. -/
structure Polled (now : Word) (rest : List HostAction) (s t : State) : Prop where
  cfg : t.cfg = s.cfg
  host : t.host = rest
  stepDelay : t.stepDelay = s.stepDelay
  lastStepTime : t.stepsLeft ≠ 0#32 → t.lastStepTime = now
  stepsLeft : t.stepsLeft.toNat = s.stepsLeft.toNat - 1
  pulses : pulses t.trace = pulses s.trace + min 1 s.stepsLeft.toNat

/-- MOVE at sufficient cadence: a pulse while Moving, nothing once drained. -/
theorem exists_polled {now : Word} {rest : List HostAction} {s : State}
    (hc : s.stepsLeft ≠ 0#32 → s.stepDelay ≤ elapsed now s.lastStepTime) :
    ∃ t, execMove { s with host := rest, timeUs := now } = .next t ∧ Polled now rest s t := by
  by_cases hleft : s.stepsLeft = 0#32
  · have hnot : ¬ pulseDue now { s with host := rest, timeUs := now } = true := by
      simp [pulseDue, State.moving, hleft]
    refine ⟨_, execMove_notDue hnot, rfl, rfl, rfl, fun h => absurd hleft h, ?_, ?_⟩ <;> simp [hleft]
  · have hdue : pulseDue now { s with host := rest, timeUs := now } = true := by
      rw [pulseDue, Bool.and_eq_true, moving_iff, decide_eq_true_eq]
      exact ⟨hleft, hc hleft⟩
    have hpos : 0 < s.stepsLeft.toNat := BitVec.toNat_pos_of_ne_zero hleft
    refine ⟨_, execMove_due hdue, pulsePins_cfg _, by rw [pulsed_eq]; rfl, by rw [pulsed_eq]; rfl, fun _ => rfl,
      toNat_sub_one hleft, (pulses_pulsed _).trans ?_⟩
    rw [Nat.min_eq_left hpos]

theorem run_succ_of_next {M : Host.Core} {s t : M.State} (h : M.step s = .next t) (k : Nat) :
    M.run (k + 1) s = M.run k t := by
  rw [Host.Core.run, h]

/-- A poll is two steps: the time input read, then MOVE. -/
theorem run_poll {now : Word} {rest : List HostAction} {s t : State} (hl : s.cfg.legal = true)
    (hh : s.host = .timeReads now :: .command (encode .move) :: rest)
    (hm : execMove { s with host := rest, timeUs := now } = .next t) (k : Nat) :
    Sys2Proof.core.run (k + 2) s = Sys2Proof.core.run k t := by
  have hmove : step { s with host := .command (encode .move) :: rest, timeUs := now } = .next t := by
    rw [step_of_command (by exact hl) rfl, runCommand_of_decode (decode_encode rfl)]
    exact hm
  exact (run_succ_of_next (M := Sys2Proof.core) (step_of_timeReads hl hh) (k + 1)).trans
    (run_succ_of_next (M := Sys2Proof.core) hmove k)

theorem polls_cons (now : Word) (times : List Word) (rest : List HostAction) :
    polls (now :: times) ++ rest = .timeReads now :: .command (encode .move) :: (polls times ++ rest) := rfl

theorem sufficientCadence_cons {delay last now : Word} {times : List Word} :
    sufficientCadence delay last (now :: times) = true ↔
      delay ≤ elapsed now last ∧ sufficientCadence delay now times = true := by
  rw [sufficientCadence, Bool.and_eq_true, decide_eq_true_eq]

/-- A run of polls. The cadence is asked for while Moving alone: once the count is drained no poll pulses, and
`lastStepTime` stands still behind the times polled. -/
theorem run_polls (times : List Word) {rest : List HostAction} {s : State} (hl : s.cfg.legal = true)
    (hh : s.host = polls times ++ rest)
    (hc : s.stepsLeft ≠ 0#32 → sufficientCadence s.stepDelay s.lastStepTime times = true) :
    ∃ t, Sys2Proof.core.run (2 * times.length) s = .next t ∧ t.host = rest ∧
      t.stepsLeft.toNat = s.stepsLeft.toNat - times.length ∧
      pulses t.trace = pulses s.trace + min times.length s.stepsLeft.toNat := by
  induction times generalizing s with
  | nil => exact ⟨s, rfl, hh, rfl, by simp⟩
  | cons now times ih =>
    simp only [sufficientCadence_cons] at hc
    obtain ⟨u, hmove, hu⟩ := exists_polled (rest := polls times ++ rest) fun h => (hc h).1
    have hmoving (h : u.stepsLeft ≠ 0#32) : s.stepsLeft ≠ 0#32 := by
      have hcount := hu.stepsLeft
      bv_omega
    obtain ⟨t, hrun, hhost, hleft, hpulses⟩ := ih (hu.cfg ▸ hl) hu.host fun h => by
      rw [hu.stepDelay, hu.lastStepTime h]
      exact (hc (hmoving h)).2
    refine ⟨t, (run_poll hl (hh.trans (polls_cons ..)) hmove _).trans hrun, hhost, ?_, ?_⟩
    · rw [hleft, hu.stepsLeft, List.length_cons]
      omega
    · rw [hpulses, hu.pulses, hu.stepsLeft, List.length_cons]
      omega

/-- Settles O51, by induction on the times polled. -/
theorem pollingEmitsExactlyTheRequestedPulses : Obligations.PollingEmitsExactlyTheRequestedPulses :=
  fun times _ _ hl hh hc => run_polls times hl hh fun _ => hc

end Sys2Proof.Machine

/-! ### Proofs for 43_lifecycle.md: START and UNSTART -/

namespace Sys2Proof.Machine

/-- Settles O37: each command is one response, from the state with the flag stored. -/
theorem startAndUnstartSetTheFlagOnly : Obligations.StartAndUnstartSetTheFlagOnly :=
  fun s => ⟨respondOk_eq 0#32 { s with started := true }, respondOk_eq 0#32 { s with started := false }⟩

end Sys2Proof.Machine

/-! ### Proofs for 44_host_register_clients.md: the host's update -/

namespace Sys2Proof.Machine

/-- Duties 1 and 2 of R191: the mask stays off the signature bits and off the owned fields. -/
theorem hostMaskLegal_iff {c : Config} {k : RegName} {mask : Reg} :
    hostMaskLegal c k mask = true ↔ mask &&& c.sigMask.get k = 0#20 ∧ mask &&& c.ownedMask k = 0#20 := by
  rw [hostMaskLegal, Bool.and_eq_true, beq_iff_eq, beq_iff_eq]

theorem step_of_update {s : State} {k : RegName} {mask bits : Reg} {rest : List HostAction}
    (hl : s.cfg.legal = true) (hh : s.host = .update k mask bits :: rest) :
    step s = hostUpdate k mask bits { s with host := rest } := by simp [step, hl, hh]

theorem hostUpdate_of_legal {s : State} {k : RegName} {mask : Reg} (hm : hostMaskLegal s.cfg k mask = true)
    (bits : Reg) : hostUpdate k mask bits s
      = .next { s with regs := s.regs.set k (hostMerge (s.regs.get k) mask bits) } := if_pos hm

theorem hostUpdate_of_not_legal {s : State} {k : RegName} {mask : Reg} (hm : hostMaskLegal s.cfg k mask ≠ true)
    (bits : Reg) : hostUpdate k mask bits s = .refused (.hostDutyBroken k mask) := if_neg hm

/-- Settles O11: the two clauses are the two sides of `hostMaskLegal`. -/
theorem hostUpdateReplacesMaskedBits : Obligations.HostUpdateReplacesMaskedBits := by
  intro s k mask bits rest hl hh
  rw [step_of_update hl hh]
  constructor
  · intro hduties
    exact hostUpdate_of_legal (s := { s with host := rest }) (hostMaskLegal_iff.2 hduties) bits
  · intro hbroken
    have hm : hostMaskLegal s.cfg k mask ≠ true := fun hlegal =>
      have ⟨hsig, hown⟩ := hostMaskLegal_iff.1 hlegal
      hbroken.elim (· hsig) (· hown)
    exact hostUpdate_of_not_legal (s := { s with host := rest }) hm bits

end Sys2Proof.Machine

/-! ### Proofs for 60_exceptions.md: the DivideByZero mark, completion of every command -/

namespace Sys2Proof.Machine

/-! ### The mark and the FAULT response (R220, R225, R228) -/

/-- A command ends in one of two ways: with a response that is no FAULT and the mark as it was, or, SET_SPEED and
SET_MICROSTEPS alone, with (FAULT, 1) and the mark set. -/
def marksWithFault (i : Instr) (s t : State) : Prop :=
  (t.divideByZeroSeen = s.divideByZeroSeen ∧ ∃ r, r.code ≠ .fault ∧ t.responses = s.responses ++ [r]) ∨
  (t.divideByZeroSeen = true ∧ t.responses = s.responses ++ [⟨.fault, 1#32⟩] ∧
    ((∃ r, i = .setSpeed r) ∨ ∃ q, i = .setMicrosteps q))

/-- The response that ends a command, given from a state with the old mark and the old responses. -/
theorem marksWithFault_respondWith {i : Instr} {s s' : State} {r : Response}
    (hmark : s'.divideByZeroSeen = s.divideByZeroSeen) (hresp : s'.responses = s.responses) (hr : r.code ≠ .fault) :
    marksWithFault i s (s'.respondWith r) :=
  .inl ⟨hmark, r, hr, congrArg (· ++ [r]) hresp⟩

theorem microstepsSent_divideByZeroSeen {q : Int} {s s' : State} (h : microstepsSent q s s') :
    s'.divideByZeroSeen = s.divideByZeroSeen := by
  rcases h with ⟨-, rfl⟩ | ⟨-, rfl⟩ <;> rfl

theorem exec_next_marksWithFault : ∀ i s t, exec i s = .next t → marksWithFault i s t := by
  apply exec_next_elim
  case responds =>
    intro i s r _ hr
    exact marksWithFault_respondWith rfl rfl (by rcases hr with hr | hr <;> simp [hr])
  case moved =>
    intro s _
    rw [pulsed, pulsePins_eq]
    exact marksWithFault_respondWith rfl rfl nofun
  case spedZero => exact fun r s p _ => .inr ⟨rfl, rfl, .inl ⟨r, rfl⟩⟩
  case microstepped =>
    intro q s s' hs
    have hmark := microstepsSent_divideByZeroSeen hs
    have hresp := microstepsSent_responses hs
    exact ⟨fun d => marksWithFault_respondWith (s' := { s' with stepDelay := d }) hmark hresp nofun,
      .inr ⟨rfl, congrArg (· ++ [_]) hresp, .inr ⟨q, rfl⟩⟩⟩
  all_goals intros; exact marksWithFault_respondWith rfl rfl nofun

theorem exec_next_keeps_divideByZeroSeen {i : Instr} {s t : State} (h : exec i s = .next t)
    (hs : s.divideByZeroSeen = true) : t.divideByZeroSeen = true := by
  rcases exec_next_marksWithFault i s t h with ⟨hmark, -⟩ | ⟨hmark, -⟩
  · rw [hmark, hs]
  · exact hmark

/-- No step clears the mark, not even `rst` (R228): it is none of the block's registers. -/
theorem step_next_keeps_divideByZeroSeen {s t : State} (h : step s = .next t) (hs : s.divideByZeroSeen = true) :
    t.divideByZeroSeen = true := by
  rcases (step_eq_next h).2 with ⟨-, rfl⟩ | ⟨w, rest, i, -, -, hx⟩ | ⟨k, mask, bits, rest, -, -, rfl⟩ |
    ⟨now, rest, -, rfl⟩ | ⟨rest, -, hr⟩ | ⟨w, n, rest, i, -, -, hc⟩
  · exact hs
  · exact exec_next_keeps_divideByZeroSeen hx hs
  · exact hs
  · exact hs
  · rw [takeReset_eq] at hr; cases hr; exact hs
  · obtain ⟨ev, a, -, rfl⟩ := cutByReset_eq_next hc; exact hs

/-- Settles O42: the two ways a command ends, told apart by the response's code. -/
theorem divideByZeroMarkFollowsTheFaultResponse : Obligations.DivideByZeroMarkFollowsTheFaultResponse := by
  refine ⟨fun s t => step_next_keeps_divideByZeroSeen, fun i s t h hs => ?_⟩
  rcases exec_next_marksWithFault i s t h with ⟨hmark, r, hr, hresp⟩ | ⟨hmark, hresp, hi⟩
  · have hunmarked : t.divideByZeroSeen ≠ true := by rw [hmark, hs]; exact Bool.false_ne_true
    have hnofault : t.responses ≠ s.responses ++ [⟨.fault, 1#32⟩] := by
      rw [hresp]
      intro heq
      obtain rfl : r = ⟨.fault, 1#32⟩ := by simpa using heq
      exact hr rfl
    exact ⟨iff_of_false hunmarked hnofault, fun ht => absurd ht hunmarked⟩
  · exact ⟨iff_of_true hmark hresp, fun _ => hi⟩

/-! ### Completion (R220, R224) -/

/-- With a code that has a count the speed computation ends the command: OK, or DivideByZero. -/
theorem exists_speedCompute_eq_next (r : Half) {s : State} (hm : s.mres.toNat ≤ 8) :
    ∃ t, speedCompute r s = .next t := by
  rcases speedCompute_cases hm with ⟨-, he⟩ | ⟨-, he⟩
  · exact ⟨_, he⟩
  · exact ⟨_, he⟩

theorem exists_execSetCurrent_eq_next (mA : Nat) {s : State} (h : s.busAnswers 6 = true) :
    ∃ t, execSetCurrent mA s = .next t := by
  cases hs : s.started with
  | false => exact ⟨_, execSetCurrent_unstarted hs⟩
  | true => exact ⟨_, execSetCurrent_completes hs h⟩

/-- STEP answers Busy while Moving and stores the count otherwise. -/
theorem exists_execStep_eq_next (n : Int) (s : State) : ∃ t, execStep n s = .next t := by
  cases hm : s.moving with
  | false => exact ⟨_, execStep_idle hm n⟩
  | true => exact ⟨_, execStep_moving hm n⟩

theorem exists_execMove_eq_next (s : State) : ∃ t, execMove s = .next t := by
  by_cases hd : pulseDue s.now s = true
  · exact ⟨_, execMove_due hd⟩
  · exact ⟨_, execMove_notDue hd⟩

theorem exists_execSetSpeed_eq_next (rpm : Nat) {s : State} (hm : s.mres.toNat ≤ 8) :
    ∃ t, execSetSpeed rpm s = .next t := by
  by_cases hr : BitVec.ofNat 16 rpm = 0#16
  · exact ⟨_, if_pos hr⟩
  · obtain ⟨t, ht⟩ := exists_speedCompute_eq_next (BitVec.ofNat 16 rpm) (s := { s with rpm := BitVec.ofNat 16 rpm }) hm
    exact ⟨t, (if_neg hr).trans ht⟩

/-- SET_MICROSTEPS computes the speed from the code it has just stored, which has a count. -/
theorem exists_execSetMicrosteps_eq_next (q : Int) {s : State} (hpos : s.cfg.posMres ≤ 16)
    (h3 : s.busAnswers 3 = true) : ∃ t, execSetMicrosteps q s = .next t := by
  have hcompute {s' : State} (h : microstepsSent q s s') : ∃ t, speedCompute s.rpm s' = .next t :=
    exists_speedCompute_eq_next _ (microstepsSent_mres hpos h ▸ microstepCode_le _)
  cases hs : s.started with
  | false => rw [execSetMicrosteps_unstarted hs]; exact hcompute (.inl ⟨hs, rfl⟩)
  | true => rw [execSetMicrosteps_sends hs h3]; exact hcompute (.inr ⟨hs, rfl⟩)

/-- Settles O44: SET_CURRENT needs six answers, EXCHANGE and SET_MICROSTEPS the first three; the sense resistor, the
place of `mres` and its code come from the invariants. -/
theorem everyCommandCompletesInAGoodState : Obligations.EveryCommandCompletesInAGoodState := by
  intro i s hi h6
  have h3 : s.busAnswers 3 = true := ((busAnswers_six s).1 h6).1
  have hm := hi.microstepCode
  cases i
  case exchange v => exact ⟨_, execExchange_completes h3⟩
  case setCurrent mA => exact exists_execSetCurrent_eq_next mA h6
  case getCurrent => exact ⟨_, execGetCurrent_eq (Config.legal_divisors_pos hi.legalConfig).2⟩
  case step n => exact exists_execStep_eq_next n s
  case move => exact exists_execMove_eq_next s
  case setSpeed rpm => exact exists_execSetSpeed_eq_next rpm hm
  case setMicrosteps q => exact exists_execSetMicrosteps_eq_next q (Config.legal_positions hi.legalConfig).1 h3
  case getMicrosteps => exact ⟨_, execGetMicrosteps_of_le hm⟩
  all_goals exact ⟨_, rfl⟩

end Sys2Proof.Machine

/-! ### Proofs for 70_reset_and_hazards.md: a pulse of `rst` between two commands, and during one -/

namespace Sys2Proof.Machine

/-! ### One equation of `step` per form of `rst` (R250) -/

section
variable {s : State} {rest : List HostAction} (hl : s.cfg.legal = true)
include hl

theorem step_of_reset (hh : s.host = .reset :: rest) : step s = takeReset { s with host := rest } := by
  simp [step, hl, hh]

theorem step_of_resetDuring {w : CommandWord} {n : Nat} {i : Instr} (hh : s.host = .resetDuring w n :: rest)
    (hd : decode w = .ok i) : step s = cutByReset n (exec i { s with host := rest }) { s with host := rest } := by
  simp [step, hl, hh, runCommand_of_decode hd]

end

/-! ### The pins `rst` releases (R252) -/

theorem pinReleases_all_idles (s : State) : s.pinReleases.all Event.idles = true := by
  rw [State.pinReleases]
  cases s.csN <;> cases s.stepPin <;> cases s.dirPin <;> rfl

/-- Settles O13: with no event of a command before it, `rst` appends the releases alone. -/
theorem resetInputRestoresTheResetState : Obligations.ResetInputRestoresTheResetState := by
  intro s rest hl hh
  rw [step_of_reset hl hh, takeReset]
  cases s.csN <;> simp [State.pinReleases]

/-! ### What is left of a command cut by `rst` (R250, R265, R266) -/

section
variable {s t : State} {ev : List Event} (h : t.trace = s.trace ++ ev) (n : Nat)
include h

/-- A command that would complete is cut after the first `n` of its events. -/
theorem cutByReset_completed : cutByReset n (.next t) s = .next (afterReset s (ev.take n) 0) := by
  simp only [cutByReset, h, List.drop_left, takeReset_emitted]

/-- A command that would hang is cut the same way; where all its events have happened, the transfer it waits for is
given up. -/
theorem cutByReset_hung :
    cutByReset n (.fault (.busHung t)) s = .next (afterReset s (ev.take n) (if ev.length ≤ n then 1 else 0)) := by
  simp only [cutByReset, h, List.drop_left]
  by_cases hn : ev.length ≤ n
  · rw [if_pos hn, if_pos hn, takeReset, foldl_emitted]
    simp [afterReset, State.pinReleases, ← List.drop_one, List.drop_drop]
  · rw [if_neg hn, if_neg hn, takeReset_emitted]

end

/-- Settles O55: completed or hung, the command's events cut anywhere are closed by the pins `rst` releases. -/
theorem resetDuringACommandCutsItShort : Obligations.ResetDuringACommandCutsItShort := by
  intro s w n rest i hl hi hh hd leaves
  have hstep := step_of_resetDuring hl hh hd
  have hleaves {ev : List Event} {a : Nat} (hclosed : closedWhenCut ev)
      (hnext : step s = .next (afterReset { s with host := rest } (ev.take n) a)) : leaves (ev.take n) a :=
    ⟨_, pinReleases_all_idles _, hclosed { s with host := rest } hi n, hnext⟩
  refine ⟨fun t hx => ?_, fun left hx => ?_⟩
  · obtain ⟨ev, htrace, hev⟩ := exec_next_events hx
    exact ⟨ev, htrace, hleaves (closedWhenCut_of_completedEvents hev)
      (by rw [hstep, hx, cutByReset_completed htrace])⟩
  · obtain ⟨ev, htrace, hev⟩ := exec_fault_events hx
    exact ⟨ev, htrace, hleaves (closedWhenCut_of_hungEvents hev)
      (by rw [hstep, hx, cutByReset_hung htrace])⟩

end Sys2Proof.Machine
